-- ==== Sys2Proof/Word.lean ====
section
/-! DEFINITION. The words of FCJM: a byte of a packet and a 32-bit register or command word (00_scope.md R8, R10). -/

namespace Sys2Proof

/-- One byte of a packet or of the frame buffer. -/
abbrev Byte := BitVec 8

/-- A host-visible register or a command word: 32 bits (00_scope.md R8, "word width"). -/
abbrev Word := BitVec 32

end Sys2Proof
end

