-- ==== Sys2Proof/Syntax.lean ====
section
/-! DEFINITION. The seven commands of FCJM (00_scope.md R2, 30_encoding.md R62 to R64) and the command lines of the
assembler (R70), whose operands are plain numbers that may be out of range. -/

namespace Sys2Proof

/-- The joint select `J` of the mapper commands (10_state.md R32, R33): which entry of the LUT. -/
inductive Joint where
  /-- J = 0: flexion/extension. -/
  | flexion
  /-- J = 1: ulnar/radial deviation. -/
  | ulnar
  deriving DecidableEq, Repr

/-- The commands, one constructor per row of the opcode map (30_encoding.md R64), each with the fields of its format
(R62, R63) at their exact widths: an operand outside its field cannot be written. -/
inductive Instr where
  /-- ENC_MOVE: build the "write position" packet (40_frame_codec.md R83). -/
  | encMove (sid : BitVec 8) (pos : BitVec 16)
  /-- ENC_READ_MOVING: build the "read moving flag" packet (R84). -/
  | encReadMoving (sid : BitVec 8)
  /-- CK_INIT: start a new checksummed sequence (R85). -/
  | ckInit
  /-- CK_BYTE: add one byte to the running sum (R86). -/
  | ckByte (byte : BitVec 8)
  /-- CK_FINAL: deliver the checksum (R87). -/
  | ckFinal
  /-- MAP_A2P: map the angle in ARG to a position (41_joint_mapper.md R104). -/
  | mapA2p (j : Joint)
  /-- MAP_P2A: map a position back to an angle (R105). -/
  | mapP2a (j : Joint) (p : BitVec 12)
  deriving DecidableEq, Repr

/-- A command as the assembler reads it (30_encoding.md R70): its operands are numbers, whose ranges
Sys2Proof/WellFormed.lean checks. -/
inductive AsmCommand where
  | encMove (sid pos : Nat)
  | encReadMoving (sid : Nat)
  | ckInit
  | ckByte (b : Nat)
  | ckFinal
  | mapA2p (j : Nat)
  | mapP2a (j p : Nat)
  deriving DecidableEq, Repr

end Sys2Proof
end

