-- ==== Sys2Proof/Decode.lean ====
section
/-! DEFINITION. The decoder of the command word (30_encoding.md R60 to R67), total over all 2^32 words, the encoder
written from the same formats (R62), and the opcode map as a table (R64). -/

namespace Sys2Proof

/-- Why a word is no command (R65, R66). Either way the CMD write raises ILLEGAL (R67). -/
inductive DecodeError where
  /-- `OP` is 0x0 or 0x8 to 0xF (R66). -/
  | reservedOpcode (op : BitVec 4)
  /-- `OP` is 0x1 to 0x7 and a must-be-zero bit of its format is 1 (R65). -/
  | mustBeZero (op : BitVec 4)
  deriving DecidableEq, Repr

/-- `OP = C[31:28]` (R61). -/
def opcodeField (c : Word) : BitVec 4 := c.extractLsb' 28 4

/-- `SID = C[23:16]` (R63). -/
def sidField (c : Word) : BitVec 8 := c.extractLsb' 16 8

/-- `POS = C[15:0]` (R63). -/
def posField (c : Word) : BitVec 16 := c.extractLsb' 0 16

/-- `BYTE = C[7:0]` (R63). -/
def byteField (c : Word) : BitVec 8 := c.extractLsb' 0 8

/-- `P = C[11:0]` (R63). -/
def pField (c : Word) : BitVec 12 := c.extractLsb' 0 12

/-- The joint a bit selects (R63, 10_state.md R33). -/
def jointOfBit (b : BitVec 1) : Joint :=
  if b = 0#1 then .flexion else .ulnar

/-- The bit that selects a joint. -/
def bitOfJoint : Joint → BitVec 1
  | .flexion => 0#1
  | .ulnar => 1#1

/-- `J = C[24]` (R63). -/
def jointField (c : Word) : Joint := jointOfBit (c.extractLsb' 24 1)

/-- The decoder, as the case split of R67. -/
def decode (c : Word) : Except DecodeError Instr :=
  if opcodeField c = 0x1#4 then
    if c.extractLsb' 24 4 ≠ 0 then .error (.mustBeZero (opcodeField c))
    else .ok (.encMove (sidField c) (posField c))
  else if opcodeField c = 0x2#4 then
    if c.extractLsb' 24 4 ≠ 0 ∨ c.extractLsb' 0 16 ≠ 0 then .error (.mustBeZero (opcodeField c))
    else .ok (.encReadMoving (sidField c))
  else if opcodeField c = 0x3#4 then
    if c.extractLsb' 0 28 ≠ 0 then .error (.mustBeZero (opcodeField c))
    else .ok .ckInit
  else if opcodeField c = 0x4#4 then
    if c.extractLsb' 8 20 ≠ 0 then .error (.mustBeZero (opcodeField c))
    else .ok (.ckByte (byteField c))
  else if opcodeField c = 0x5#4 then
    if c.extractLsb' 0 28 ≠ 0 then .error (.mustBeZero (opcodeField c))
    else .ok .ckFinal
  else if opcodeField c = 0x6#4 then
    if c.extractLsb' 25 3 ≠ 0 ∨ c.extractLsb' 0 24 ≠ 0 then .error (.mustBeZero (opcodeField c))
    else .ok (.mapA2p (jointField c))
  else if opcodeField c = 0x7#4 then
    if c.extractLsb' 25 3 ≠ 0 ∨ c.extractLsb' 12 12 ≠ 0 then .error (.mustBeZero (opcodeField c))
    else .ok (.mapP2a (jointField c) (pField c))
  else .error (.reservedOpcode (opcodeField c))

/-- The encoder: the word of a command, field by field from bit 31 down, as the formats of R62 draw it. -/
def encode : Instr → Word
  | .encMove sid pos => 0x1#4 ++ 0#4 ++ sid ++ pos
  | .encReadMoving sid => 0x2#4 ++ 0#4 ++ sid ++ 0#16
  | .ckInit => 0x3#4 ++ 0#28
  | .ckByte b => 0x4#4 ++ 0#20 ++ b
  | .ckFinal => 0x5#4 ++ 0#28
  | .mapA2p j => 0x6#4 ++ 0#3 ++ bitOfJoint j ++ 0#24
  | .mapP2a j p => 0x7#4 ++ 0#3 ++ bitOfJoint j ++ 0#12 ++ p

/-- One row of the opcode map (R64): a word `C` is the command of the row when `C & mask = match`. -/
structure OpcodeRow where
  mnemonic : String
  /-- The row's `match`. -/
  pattern : Word
  mask : Word
  deriving DecidableEq, Repr

/-- Whether a word is the command of a row (R64). -/
def OpcodeRow.matches (r : OpcodeRow) (c : Word) : Bool := c &&& r.mask == r.pattern

/-- The seven command rows of the opcode map, in its order (R64). -/
def opcodeRows : List OpcodeRow :=
  [ ⟨"ENC_MOVE", 0x10000000, 0xFF000000⟩,
    ⟨"ENC_READ_MOVING", 0x20000000, 0xFF00FFFF⟩,
    ⟨"CK_INIT", 0x30000000, 0xFFFFFFFF⟩,
    ⟨"CK_BYTE", 0x40000000, 0xFFFFFF00⟩,
    ⟨"CK_FINAL", 0x50000000, 0xFFFFFFFF⟩,
    ⟨"MAP_A2P", 0x60000000, 0xFEFFFFFF⟩,
    ⟨"MAP_P2A", 0x70000000, 0xFEFFF000⟩ ]

/-- The two reserved rows of the opcode map (R64, R66). -/
def reservedRows : List OpcodeRow :=
  [ ⟨"(reserved 0x0)", 0x00000000, 0xF0000000⟩,
    ⟨"(reserved 0x8 to 0xF)", 0x80000000, 0x80000000⟩ ]

/-- The mnemonic of a command (R64). -/
def mnemonic : Instr → String
  | .encMove _ _ => "ENC_MOVE"
  | .encReadMoving _ => "ENC_READ_MOVING"
  | .ckInit => "CK_INIT"
  | .ckByte _ => "CK_BYTE"
  | .ckFinal => "CK_FINAL"
  | .mapA2p _ => "MAP_A2P"
  | .mapP2a _ _ => "MAP_P2A"

/-- The command an opcode-table word decodes to. A command is one 32-bit word written whole (R60), so the word's bits
are the command's bits, and bits above `nbits` are zero. -/
def decodeTableWord (nbits w : Nat) : Option Instr :=
  match decode (BitVec.ofNat 32 (w % 2 ^ nbits)) with
  | .ok i => some i
  | .error _ => none

end Sys2Proof
end

