-- ==== Sys2Proof/Config.lean ====
section
/-! DEFINITION. The parameters of the block (00_scope.md R8, R9; 10_state.md R32): the calibration LUT, the rounding
mode, the number of fraction bits of an angle, and the host address of the window. Their values for this hardware are
in Sys2Proof/Machine/Calibration.lean. -/

namespace Sys2Proof

/-- ROUND_MODE (R8, R9, 41_joint_mapper.md R102): one of two values for the whole life of the block. -/
inductive RoundMode where
  | halfAway
  | halfEven
  deriving DecidableEq, Repr

/-- One entry of the calibration LUT (10_state.md R32): "all non-negative integers". -/
structure CalEntry where
  /-- `GRN`: numerator of the gear ratio. -/
  grn : Nat
  /-- `GRD`: denominator of the gear ratio. -/
  grd : Nat
  /-- `RANGE`: device units spanning full mechanical travel. -/
  range : Nat
  /-- `CENTER`: the position of angle 0. -/
  center : Nat
  /-- `MIN`: lower clamp bound of the forward mapping. -/
  min : Nat
  /-- `MAX`: upper clamp bound of the forward mapping. -/
  max : Nat
  /-- `SERVO`: the servo id the joint drives (informative: no command reads it). -/
  servo : Nat
  deriving DecidableEq, Repr

/-- The LUT `CAL` with its `NJ = 2` entries (10_state.md R32). -/
structure Cal where
  entry0 : CalEntry
  entry1 : CalEntry
  deriving DecidableEq, Repr

/-- The parameters a model takes as an argument (00_scope.md R8); State carries them, and nothing writes them
(notes/assumptions/5.md). -/
structure Params where
  /-- `CAL`, the calibration LUT. -/
  cal : Cal
  /-- `ROUND_MODE`, rounding of the mapper. -/
  roundMode : RoundMode
  /-- `F` (ANGLE_FRAC_BITS), fraction bits of the fixed-point angle. -/
  angleFracBits : Nat
  deriving DecidableEq, Repr

/-- `BASE`, the host address of the register window: OPEN (00_scope.md R8, 20_memory.md R40, R55). It has no value
here; no step reads it, since an access names its offset in the window (notes/assumptions/7.md). -/
opaque Config.base : Nat

end Sys2Proof
end

