-- ==== Sys2Proof/Machine/MapperArith.lean ====
section
/-! DEFINITION. The exact arithmetic of the joint mapper (41_joint_mapper.md R101 to R105, R109): unbounded integers,
one rounding, the clamp. Nothing here knows the machine's state. -/

namespace Sys2Proof.Machine

/-- `RoundQ` under `HALF_AWAY` (R102); `d > 0`. Lean's `/` on integers is the floor there. -/
def roundHalfAway (n d : Int) : Int :=
  if 0 ≤ n then (2 * n + d) / (2 * d) else -((-2 * n + d) / (2 * d))

/-- `RoundQ` under `HALF_EVEN` (R102); `d > 0`. -/
def roundHalfEven (n d : Int) : Int :=
  let q := n / d
  let r := n - q * d
  if 2 * r < d then q
  else if d < 2 * r then q + 1
  else if q % 2 = 0 then q else q + 1

/-- `RoundQ(N, D)` by `ROUND_MODE` (R102). -/
def roundQ (mode : RoundMode) (n d : Int) : Int :=
  match mode with
  | .halfAway => roundHalfAway n d
  | .halfEven => roundHalfEven n d

/-- `Clamp(p, lo, hi)` (R103). -/
def clamp (p lo hi : Int) : Int :=
  if p < lo then lo else if hi < p then hi else p

/-- The LUT entry chosen by `J` alone (R110, 10_state.md R32). -/
def calEntry (cal : Cal) : Joint → CalEntry
  | .flexion => cal.entry0
  | .ulnar => cal.entry1

/-- `dpp(e) = 360 * e.GRD / (e.GRN * e.RANGE)`, degrees per position unit, an exact rational (R101). The commands do
not read it; statements about them do. -/
def degreesPerPosition (e : CalEntry) : Rat :=
  (360 * (e.grd : Rat)) / ((e.grn : Rat) * (e.range : Rat))

/-- `D` of MAP_A2P (R104). -/
def a2pDenominator (frac : Nat) (e : CalEntry) : Int :=
  ((e.grd * 360 * 2 ^ frac : Nat) : Int)

/-- `N` of MAP_A2P (R104): `a` is the angle word read as a signed number. -/
def a2pNumerator (frac : Nat) (e : CalEntry) (a : Int) : Int :=
  (e.center : Int) * a2pDenominator frac e + a * (e.grn : Int) * (e.range : Int)

/-- `p` of MAP_A2P (R104): the sum, rounded as a whole, before the clamp. -/
def a2pRounded (p : Params) (e : CalEntry) (a : Int) : Int :=
  roundQ p.roundMode (a2pNumerator p.angleFracBits e a) (a2pDenominator p.angleFracBits e)

/-- The clamped position of MAP_A2P (R103, R104). -/
def a2pPosition (p : Params) (e : CalEntry) (a : Int) : Int :=
  clamp (a2pRounded p e a) (e.min : Int) (e.max : Int)

/-- `N` of MAP_P2A (R105). -/
def p2aNumerator (frac : Nat) (e : CalEntry) (pos : Nat) : Int :=
  ((pos : Int) - (e.center : Int)) * 360 * (e.grd : Int) * ((2 ^ frac : Nat) : Int)

/-- `D` of MAP_P2A (R105). -/
def p2aDenominator (e : CalEntry) : Int :=
  (e.grn : Int) * (e.range : Int)

/-- The rounded angle of MAP_P2A, in steps of `2^-F` degrees, before it is put in 32 bits (R105). -/
def p2aAngle (p : Params) (e : CalEntry) (pos : Nat) : Int :=
  roundQ p.roundMode (p2aNumerator p.angleFracBits e pos) (p2aDenominator e)

end Sys2Proof.Machine
end

