-- ==== Sys2Proof/Machine/Calibration.lean ====
section
/-! DEFINITION. The parameters of this hardware (00_scope.md R8, 10_state.md R33) and the check of a parameter's
well-formedness (R9, R34). -/

namespace Sys2Proof.Machine

/-- Entry J = 0 of the default `CAL` (10_state.md R33): flexion/extension, servo 1, gear ratio 9/5. -/
def flexionEntry : CalEntry where
  grn := 9
  grd := 5
  range := 4095
  center := 2048
  min := 1500
  max := 4095
  servo := 1

/-- Entry J = 1 of the default `CAL` (10_state.md R33): ulnar/radial deviation, servo 4, gear ratio 61/20. -/
def ulnarEntry : CalEntry where
  grn := 61
  grd := 20
  range := 1900
  center := 2150
  min := 1200
  max := 3100
  servo := 4

/-- The default `CAL` (10_state.md R33). -/
def defaultCal : Cal where
  entry0 := flexionEntry
  entry1 := ulnarEntry

/-- The parameters of this hardware (00_scope.md R8): the default `CAL`, `HALF_AWAY`, `F = 16`. -/
def defaultParams : Params where
  cal := defaultCal
  roundMode := .halfAway
  angleFracBits := 16

/-- The MAP_P2A result at one position lies in `[-2^31, 2^31 - 1]` (10_state.md R34). -/
def p2aFits (p : Params) (e : CalEntry) (pos : Nat) : Bool :=
  decide (-2147483648 ≤ p2aAngle p e pos) && decide (p2aAngle p e pos ≤ 2147483647)

/-- The clause of R34 on MAP_P2A in the spec's own words: every input position 0 to 4095. -/
def P2aAlwaysFits (p : Params) (e : CalEntry) : Prop :=
  ∀ pos : Nat, pos ≤ 4095 → p2aFits p e pos = true

/-- R34 for one entry in the spec's own words. -/
def EntryAccepted (p : Params) (e : CalEntry) : Prop :=
  1 ≤ e.grn ∧ 1 ≤ e.grd ∧ 1 ≤ e.range ∧ e.min ≤ e.max ∧ e.max ≤ 4095 ∧ e.center ≤ 4095 ∧ P2aAlwaysFits p e

/-- R9 and R34 for the block in the spec's own words: `F` is at most 31 and every entry is well-formed. -/
def ParamsAccepted (p : Params) : Prop :=
  p.angleFracBits ≤ 31 ∧ EntryAccepted p p.cal.entry0 ∧ EntryAccepted p p.cal.entry1

/-- R34 for one entry. The clause on MAP_P2A is tested at the two ends of the input only: the mapping is monotone, so
this is the same as `P2aAlwaysFits` (DEDUCED, notes/assumptions/10.md, stated as an obligation). -/
def entryWellFormed (p : Params) (e : CalEntry) : Bool :=
  decide (1 ≤ e.grn) && decide (1 ≤ e.grd) && decide (1 ≤ e.range) &&
  decide (e.min ≤ e.max) && decide (e.max ≤ 4095) && decide (e.center ≤ 4095) &&
  p2aFits p e 0 && p2aFits p e 4095

/-- R9 and R34 for the block: both entries well-formed and `F ≤ 31`. -/
def paramsWellFormed (p : Params) : Bool :=
  decide (p.angleFracBits ≤ 31) && entryWellFormed p p.cal.entry0 && entryWellFormed p p.cal.entry1

end Sys2Proof.Machine
end

