-- ==== Sys2Proof/Machine/State.lean ====
section
/-! DEFINITION. The state of FCJM (10_state.md R20), the host's accesses and answers (00_scope.md R13, R17), the
reasons a step can stop, and the state after reset (R37, 70_reset_and_hazards.md R141). -/

namespace Sys2Proof.Machine

/-- The frame buffer `FRAME[0..8]` (10_state.md R25): nine bytes, `FRAME[0]` first on the wire. -/
structure Frame where
  b0 : Byte
  b1 : Byte
  b2 : Byte
  b3 : Byte
  b4 : Byte
  b5 : Byte
  b6 : Byte
  b7 : Byte
  b8 : Byte
  deriving DecidableEq, Repr

/-- Whether a host access reads or writes, and what it writes (20_memory.md R42, R43). An access of a size other than
4 bytes is a bus error whatever its data, so a word of data is enough (DESIGN CHOICE, safe, notes/assumptions/9.md). -/
inductive AccessKind where
  | read
  | write (v : Word)
  deriving DecidableEq, Repr

/-- What the two agents can do to FCJM (00_scope.md R17). -/
inductive HostEvent where
  /-- `HostAccess(off, n, kind, v)`: an access of `n` bytes at byte offset `off` (20_memory.md R42). -/
  | access (off n : Nat) (kind : AccessKind)
  /-- The reset input is applied and released (70_reset_and_hazards.md R140, R141). -/
  | reset
  deriving DecidableEq, Repr

/-- What the host received for the access performed last (20_memory.md R43, 60_exceptions.md R125). -/
inductive Response where
  /-- No access performed since reset. -/
  | idle
  /-- A write completed. -/
  | written
  /-- A read returned `v`. -/
  | data (v : Word)
  /-- An error response in place of the access's completion (R125). -/
  | busError (off : Nat)
  deriving DecidableEq, Repr

/-- The registers with a place in the window (20_memory.md R41). -/
inductive WindowReg where
  | cmd
  | arg
  | status
  | result
  | frame0
  | frame1
  | frame2
  deriving DecidableEq, Repr

/-- The state: every piece of 10_state.md R20, the block's parameters (00_scope.md R8), and the model's own view of
the host (`pending`, `response`; notes/assumptions/1.md, 2.md). -/
structure State where
  /-- `ARG`, the operand register (R22). -/
  arg : Word
  /-- `RESULT`, the result register (R23). -/
  result : Word
  /-- `FRAME[0..8]`, the last packet built (R25). -/
  frame : Frame
  /-- `FLEN`, its length in bytes: 0, 8 or 9 (R25). -/
  flen : BitVec 4
  /-- `ACC`, the hidden running sum (R27). -/
  acc : Byte
  /-- `CKNE`, at least one byte summed (R28). -/
  ckne : Bool
  /-- `ERR`, outcome of the last command (R29). -/
  err : BitVec 3
  /-- `STICKY`, some command failed since reset (R30). -/
  sticky : Bool
  /-- `CAL` (R32) and the parameters `ROUND_MODE` and `F` (00_scope.md R8): nothing writes them. That they stand in State
  is a DESIGN CHOICE (notes/assumptions/5.md). -/
  params : Params
  /-- The MODEL's own (DESIGN CHOICE, unsafe, notes/assumptions/1.md): the host's accesses and the resets still to come,
  oldest first. -/
  pending : List HostEvent
  /-- The MODEL's own (DESIGN CHOICE, unsafe, notes/assumptions/2.md): the answer to the access performed last. -/
  response : Response
  deriving DecidableEq, Repr

/-- Why a step faults. Safe: the model stops where the spec says a state cannot arise. -/
inductive Fault where
  /-- Raised by `step` in a state whose `ERR` is 3 to 7: "a model that meets one has departed from the spec: `fault`"
  (93_implementation_defined.md I10; DEDUCED, notes/assumptions/6.md). Safe: no step produces such a state. -/
  | reservedErrCode
  deriving DecidableEq, Repr

/-- Why a step is refused. Safe: the model stops. -/
inductive Refusal where
  /-- An arm of `exec` that has no meaning yet. No arm raises it. Safe. -/
  | notModelled (mnemonic : String)
  /-- Raised by `step` and by the mapper commands when the parameters do not meet 00_scope.md R9 and 10_state.md R34
  ("A model refuses a configuration that is not"). Safe: the parameters of this hardware meet them. -/
  | illFormedParameters
  deriving DecidableEq, Repr

/-- The frame buffer of zeros (R25). -/
def Frame.zero : Frame := ⟨0, 0, 0, 0, 0, 0, 0, 0, 0⟩

/-- FCJM right after reset (R37, 70_reset_and_hazards.md R141), with the parameters of this hardware and nothing
pending from the host (notes/assumptions/1.md, 2.md). -/
def State.reset : State where
  arg := 0
  result := 0
  frame := Frame.zero
  flen := 0
  acc := 0
  ckne := false
  err := 0
  sticky := false
  params := defaultParams
  pending := []
  response := .idle

end Sys2Proof.Machine
end

