-- ==== Sys2Proof/Machine/Flags.lean ====
section
/-! DEFINITION. The status flags (10_state.md R28 to R31, 60_exceptions.md R121): the outcome codes, the two ways a
command ends, and the STATUS word. -/

namespace Sys2Proof.Machine

/-- ERR code 0, OK (R121). -/
def errOk : BitVec 3 := 0

/-- ERR code 1, ILLEGAL (R121). -/
def errIllegal : BitVec 3 := 1

/-- ERR code 2, EMPTY (R121). -/
def errEmpty : BitVec 3 := 2

/-- A one-bit flag as a bit of a word. -/
def flagBit (b : Bool) : BitVec 1 := BitVec.ofBool b

/-- "A command that succeeds writes `ERR <- 0` and leaves `STICKY` unchanged" (R123). -/
def State.succeed (s : State) : State := { s with err := errOk }

/-- `STATUS = {23'b0, STICKY, FLEN[3:0], CKNE, ERR[2:0]}` (R31). -/
def State.status (s : State) : Word :=
  0#23 ++ flagBit s.sticky ++ s.flen ++ flagBit s.ckne ++ s.err

end Sys2Proof.Machine
end

