-- ==== Sys2Proof/WellFormed.lean ====
section
/-! DEFINITION. The well-formedness checks. An `Instr` needs none: its fields have the exact widths of R63, so every
one is encodable. What can be ill-formed is an assembler command's operand (30_encoding.md R70) and a parameter of the
block (00_scope.md R9, 10_state.md R34, in Sys2Proof/Machine/Calibration.lean, gathered here by `Params.wellFormed`). -/

namespace Sys2Proof

/-- 30_encoding.md R70: the ranges of the operands; "An assembler refuses an operand outside its range rather than
truncate it." -/
def AsmCommand.wellFormed : AsmCommand → Bool
  | .encMove sid pos => decide (sid ≤ 255) && decide (pos ≤ 65535)
  | .encReadMoving sid => decide (sid ≤ 255)
  | .ckInit => true
  | .ckByte b => decide (b ≤ 255)
  | .ckFinal => true
  | .mapA2p j => decide (j ≤ 1)
  | .mapP2a j p => decide (j ≤ 1) && decide (p ≤ 4095)

/-- 00_scope.md R9: the condition under which a model accepts the block's parameters. -/
def Params.wellFormed (p : Params) : Bool := Machine.paramsWellFormed p

end Sys2Proof
end

