-- ==== Sys2Proof/Machine/Ops.lean ====
section
/-! DEFINITION. The named operations over the state: raising a command error (60_exceptions.md R122), the checksum
(40_frame_codec.md R81), building a packet (30_encoding.md R68), and the updates the commands share. FCJM has no trap
entry and no return from one (R128): raising an error is all there is. -/

namespace Sys2Proof.Machine

/-- The state of `raise <Error>` inside a command: ERR takes the code, STICKY is set, nothing else changes (R122). -/
def State.raise (s : State) (code : BitVec 3) : State := { s with err := code, sticky := true }

/-- `RESULT <- v` (10_state.md R23). -/
def State.setResult (s : State) (v : Word) : State := { s with result := v }

/-- `ARG <- v`, by a host write only (R22). -/
def State.setArg (s : State) (v : Word) : State := { s with arg := v }

/-- The checksum generator's two registers (R27, R28). -/
def State.setSum (s : State) (acc : Byte) (ckne : Bool) : State := { s with acc := acc, ckne := ckne }

/-- What the host receives for its access (notes/assumptions/2.md). -/
def State.respond (s : State) (r : Response) : State := { s with response := r }

/-- The oldest pending event has been taken. -/
def State.setPending (s : State) (es : List HostEvent) : State := { s with pending := es }

/-- `sum(bytes)`: the integer sum of the byte values (00_scope.md R12). -/
def byteSum (bs : List Byte) : Nat := (bs.map BitVec.toNat).sum

/-- `Checksum` of the non-empty sequence `b, bs…`: `255 - (sum mod 256)` (R81). The empty sequence has none. -/
def checksum (b : Byte) (bs : List Byte) : Byte :=
  BitVec.ofNat 8 (255 - byteSum (b :: bs) % 256)

/-- The checksum of a sequence where there is one: "The checksum of an empty sequence is not defined" (R81). -/
def checksumOf : List Byte → Option Byte
  | [] => none
  | b :: bs => some (checksum b bs)

/-- The general packet (30_encoding.md R68): header, servo id, length = 2 + parameters, instruction code, parameters,
and the checksum of servo id through last parameter (40_frame_codec.md R80). -/
def buildPacket (sid code : Byte) (parameters : List Byte) : List Byte :=
  let len : Byte := BitVec.ofNat 8 (2 + parameters.length)
  [0xFF, 0xFF, sid, len, code] ++ parameters ++ [checksum sid ([len, code] ++ parameters)]

/-- Nine bytes from a packet: bytes beyond it are 0x00 (10_state.md R25). -/
def Frame.ofPacket (p : List Byte) : Frame where
  b0 := p.getD 0 0
  b1 := p.getD 1 0
  b2 := p.getD 2 0
  b3 := p.getD 3 0
  b4 := p.getD 4 0
  b5 := p.getD 5 0
  b6 := p.getD 6 0
  b7 := p.getD 7 0
  b8 := p.getD 8 0

/-- `FRAME[0], …, FRAME[8]` in index order. -/
def Frame.bytes (f : Frame) : List Byte := [f.b0, f.b1, f.b2, f.b3, f.b4, f.b5, f.b6, f.b7, f.b8]

/-- "Every packet-building command writes all nine bytes of `FRAME` and `FLEN` together" (R25). -/
def State.loadPacket (s : State) (p : List Byte) : State :=
  { s with frame := Frame.ofPacket p, flen := BitVec.ofNat 4 p.length }

/-- A command whose meaning reads the LUT goes on only under well-formed parameters (00_scope.md R9; the refusal's form is
a DESIGN CHOICE, safe, notes/assumptions/5.md). -/
def whenWellFormed (s t : State) : Host.Outcome State Fault Refusal :=
  if s.params.wellFormed then .next t else .refused .illFormedParameters

/-- Reset (70_reset_and_hazards.md R141): every piece of state at its reset value; the parameters stay, and so do the
host's later accesses (DESIGN CHOICE, unsafe, notes/assumptions/8.md). -/
def State.resetWith (s : State) (es : List HostEvent) : State :=
  { State.reset with params := s.params, pending := es }

end Sys2Proof.Machine
end

