-- ==== Sys2Proof/Machine/Operands.lean ====
section
/-! DEFINITION. How operands and data words are read: the bytes of a position (20_memory.md R47), the signed angle
(41_joint_mapper.md R100), the words FRAME0 to FRAME2 (20_memory.md R46), the byte lanes of a register (R48), and the
packet the host hands to the transport (70_reset_and_hazards.md R148). -/

namespace Sys2Proof.Machine

/-- `pos_low = position & 0xFF` (R47, 40_frame_codec.md R83). -/
def posLow (pos : BitVec 16) : Byte := pos.extractLsb' 0 8

/-- `pos_high = (position >> 8) & 0xFF` (R47, R83). -/
def posHigh (pos : BitVec 16) : Byte := pos.extractLsb' 8 8

/-- `sext_32(ARG)`: the angle word as a signed number of steps of `2^-F` degrees (R100, R104). -/
def angleOperand (w : Word) : Int := w.toInt

/-- FRAME0 = `{FRAME[3], FRAME[2], FRAME[1], FRAME[0]}` (20_memory.md R43, R46). -/
def State.frame0 (s : State) : Word := s.frame.b3 ++ s.frame.b2 ++ s.frame.b1 ++ s.frame.b0

/-- FRAME1 = `{FRAME[7], FRAME[6], FRAME[5], FRAME[4]}` (R43, R46). -/
def State.frame1 (s : State) : Word := s.frame.b7 ++ s.frame.b6 ++ s.frame.b5 ++ s.frame.b4

/-- FRAME2 = `{24'b0, FRAME[8]}` (R43, R46). -/
def State.frame2 (s : State) : Word := 0#24 ++ s.frame.b8

/-- Bits `[8i+7 : 8i]` of a register, the byte at byte address `off + i` (R48). -/
def byteLane (w : Word) (i : Nat) : Byte := w.extractLsb' (8 * i) 8

/-- The packet: `FRAME[0 .. FLEN-1]` (R148). -/
def State.packet (s : State) : List Byte := s.frame.bytes.take s.flen.toNat

/-- The bytes the checksum covers: `FRAME[2 .. FLEN-2]` (40_frame_codec.md R88). -/
def State.payload (s : State) : List Byte := (s.packet.drop 2).dropLast

end Sys2Proof.Machine
end

