-- ==== Sys2Proof/Machine/FrameCodec.lean ====
section
/-! DEFINITION. The frame codec commands (40_frame_codec.md R83 to R87). -/

namespace Sys2Proof.Machine

/-- ENC_MOVE (R83): the packet of instruction 0x03 with parameters 0x2A, pos_low, pos_high (30_encoding.md R69). -/
def execEncMove (sid : BitVec 8) (pos : BitVec 16) (s : State) : Host.Outcome State Fault Refusal :=
  .next (s.loadPacket (buildPacket sid 0x03 [0x2A, posLow pos, posHigh pos])).succeed

/-- ENC_READ_MOVING (R84): the packet of instruction 0x02 with parameters 0x42, 0x01 (R69). -/
def execEncReadMoving (sid : BitVec 8) (s : State) : Host.Outcome State Fault Refusal :=
  .next (s.loadPacket (buildPacket sid 0x02 [0x42, 0x01])).succeed

/-- CK_INIT (R85). -/
def execCkInit (s : State) : Host.Outcome State Fault Refusal :=
  .next (s.setSum 0 false).succeed

/-- CK_BYTE (R86): the sum wraps modulo 256 with no carry kept. -/
def execCkByte (byte : BitVec 8) (s : State) : Host.Outcome State Fault Refusal :=
  .next (s.setSum (s.acc + byte) true).succeed

/-- CK_FINAL (R87): EMPTY when no byte has been added, else the complement of the sum, zero-extended. -/
def execCkFinal (s : State) : Host.Outcome State Fault Refusal :=
  if s.ckne then .next (s.setResult (BitVec.ofNat 32 (255 - s.acc.toNat))).succeed
  else .next (s.raise errEmpty)

end Sys2Proof.Machine
end

