-- ==== Sys2Proof/Machine/JointMapper.lean ====
section
/-! DEFINITION. The joint mapper commands (41_joint_mapper.md R104, R105). -/

namespace Sys2Proof.Machine

/-- MAP_A2P (R104): the clamped position of the angle in ARG, zero-extended. -/
def execMapA2p (j : Joint) (s : State) : Host.Outcome State Fault Refusal :=
  whenWellFormed s
    (s.setResult (BitVec.ofInt 32 (a2pPosition s.params (calEntry s.params.cal j) (angleOperand s.arg)))).succeed

/-- MAP_P2A (R105): the angle of position `p` in two's complement, `trunc_32`. -/
def execMapP2a (j : Joint) (p : BitVec 12) (s : State) : Host.Outcome State Fault Refusal :=
  whenWellFormed s
    (s.setResult (BitVec.ofInt 32 (p2aAngle s.params (calEntry s.params.cal j) p.toNat))).succeed

end Sys2Proof.Machine
end

