-- ==== Sys2Proof/Machine/Dispatch.lean ====
section
/-! DEFINITION. The meaning of a command: one arm per constructor of Instr (30_encoding.md R64, R67). -/

namespace Sys2Proof.Machine

def exec (i : Instr) (s : State) : Host.Outcome State Fault Refusal :=
  match i with
  | .encMove sid pos => Sys2Proof.Machine.execEncMove sid pos s
  | .encReadMoving sid => Sys2Proof.Machine.execEncReadMoving sid s
  | .ckInit => Sys2Proof.Machine.execCkInit s
  | .ckByte byte => Sys2Proof.Machine.execCkByte byte s
  | .ckFinal => Sys2Proof.Machine.execCkFinal s
  | .mapA2p j => Sys2Proof.Machine.execMapA2p j s
  | .mapP2a j p => Sys2Proof.Machine.execMapP2a j p s

end Sys2Proof.Machine
end

