-- ==== Sys2Proof/Machine/Window.lean ====
section
/-! DEFINITION. The register window (20_memory.md R40 to R48): host accesses, the CMD write, bus errors
(60_exceptions.md R125), and the event a step performs. -/

namespace Sys2Proof.Machine

/-- The offset of a register in the window (R41). -/
def regOffset : WindowReg → Nat
  | .cmd => 0x00
  | .arg => 0x04
  | .status => 0x08
  | .result => 0x0C
  | .frame0 => 0x10
  | .frame1 => 0x14
  | .frame2 => 0x18

/-- The register at an offset: none at the reserved offset 0x1C (R41, R55). -/
def regAt (off : Nat) : Option WindowReg :=
  if off = 0x00 then some .cmd
  else if off = 0x04 then some .arg
  else if off = 0x08 then some .status
  else if off = 0x0C then some .result
  else if off = 0x10 then some .frame0
  else if off = 0x14 then some .frame1
  else if off = 0x18 then some .frame2
  else none

/-- What a read of a register returns (R43): CMD is write only. -/
def readReg (r : WindowReg) (s : State) : Option Word :=
  match r with
  | .cmd => none
  | .arg => some s.arg
  | .status => some s.status
  | .result => some s.result
  | .frame0 => some s.frame0
  | .frame1 => some s.frame1
  | .frame2 => some s.frame2

/-- `raise BusError(off)`: no FCJM state changes and the host receives an error response (R125). The machine goes on, so
it is a next state (DEDUCED, safe, notes/assumptions/4.md). -/
def busError (off : Nat) (s : State) : Host.Outcome State Fault Refusal :=
  .next (s.respond (.busError off))

/-- `Execute(C)` (30_encoding.md R67): the command the word encodes, or ILLEGAL. -/
def execute (c : Word) (s : State) : Host.Outcome State Fault Refusal :=
  match decode c with
  | .ok i => exec i s
  | .error _ => .next (s.raise errIllegal)

/-- A legal-sized read of the register at an offset (R43). -/
def readAccess (off : Nat) (s : State) : Host.Outcome State Fault Refusal :=
  match (regAt off).bind (fun r => readReg r s) with
  | some v => .next (s.respond (.data v))
  | none => busError off s

/-- A legal-sized write at an offset (R43): CMD and ARG only. -/
def writeAccess (off : Nat) (v : Word) (s : State) : Host.Outcome State Fault Refusal :=
  match regAt off with
  | some .cmd => execute v (s.respond .written)
  | some .arg => .next ((s.setArg v).respond .written)
  | _ => busError off s

/-- Whether R42 accepts an access's size and offset. -/
def accessAligned (off n : Nat) : Bool := n == 4 && off % 4 == 0 && decide (off ≤ 0x1F)

/-- `HostAccess(off, n, kind, v)` (R42, R43). -/
def hostAccess (off n : Nat) (kind : AccessKind) (s : State) : Host.Outcome State Fault Refusal :=
  if accessAligned off n then
    match kind with
    | .read => readAccess off s
    | .write v => writeAccess off v s
  else busError off s

/-- The event the two agents bring (00_scope.md R17). -/
def performEvent (e : HostEvent) (rest : List HostEvent) (s : State) : Host.Outcome State Fault Refusal :=
  match e with
  | .reset => .next (s.resetWith rest)
  | .access off n kind => hostAccess off n kind (s.setPending rest)

/-- One step: the oldest pending event, or nothing (R17: no background activity; DESIGN CHOICE, safe,
notes/assumptions/3.md). A configuration R9 does not accept is refused (DESIGN CHOICE, notes/assumptions/5.md), and a
reserved ERR code faults (93_implementation_defined.md I10; DEDUCED, safe, notes/assumptions/6.md). -/
def performNext (s : State) : Host.Outcome State Fault Refusal :=
  if s.params.wellFormed then
    if s.err.toNat ≤ 2 then
      match s.pending with
      | [] => .next s
      | e :: rest => performEvent e rest s
    else .fault .reservedErrCode
  else .refused .illFormedParameters

/-- `MemRead(off, 4)` (00_scope.md R13). -/
def memRead (r : WindowReg) : HostEvent := .access (regOffset r) 4 .read

/-- `MemWrite(off, 4, v)` (R13). -/
def memWrite (r : WindowReg) (v : Word) : HostEvent := .access (regOffset r) 4 (.write v)

/-- The host writes a command to CMD (30_encoding.md R60). -/
def cmdWrite (i : Instr) : HostEvent := memWrite .cmd (encode i)

/-- The byte at byte offset `a` of the window, as a host with byte addressing views it: byte `i` of a register at
`off + i` (20_memory.md R48). CMD and the reserved word have none (DESIGN CHOICE, safe, notes/assumptions/7.md). -/
def windowByte (s : State) (a : Nat) : Option Byte :=
  (regAt (a - a % 4)).bind fun r => (readReg r s).map fun w => byteLane w (a % 4)

/-- The same view at a host address: the window stands at `BASE` (R40, R48). -/
def hostByte (s : State) (addr : Nat) : Option Byte :=
  if Config.base ≤ addr ∧ addr < Config.base + 32 then windowByte s (addr - Config.base) else none

end Sys2Proof.Machine
end

