-- ==== Sys2Proof/Machine/Step.lean ====
section
/-! DEFINITION. One step of the machine (70_reset_and_hazards.md R152: "each CMD write is one step"; every other host
access and a reset are one step each), and how an instruction is placed for the next step. -/

namespace Sys2Proof.Machine

/-- One step: the next event of the host or of the reset input. -/
def step (s : State) : Host.Outcome State Fault Refusal := performNext s

/-- The state in which the host's next access writes the word to CMD: FCJM fetches nothing (10_state.md R24), so this
is where its next instruction comes from (notes/assumptions/1.md). -/
def State.withFetchWord (s : State) (nbits w : Nat) : State :=
  { s with pending := memWrite .cmd (BitVec.ofNat 32 (w % 2 ^ nbits)) :: s.pending }

end Sys2Proof.Machine
end

