-- ==== Sys2Proof/Machine/Assembler.lean ====
section
/-! DEFINITION. The assembler forms of 30_encoding.md R70 and R71: a command with its operands checked, the two host
accesses `W` and `R`, and the pseudo-commands with their expansions into host accesses. The characters of a line are
in Sys2Proof/Machine/AsmText.lean. -/

namespace Sys2Proof.Machine

/-- Why a line is refused. -/
inductive AsmError where
  /-- "An assembler refuses an operand outside its range rather than truncate it." (R70) -/
  | operandOutOfRange
  /-- The text is no line of R70 or R71. -/
  | malformedLine
  /-- `A2P` with an angle in degrees: "that conversion is outside FCJM" (R71). -/
  | hostConversion
  deriving DecidableEq, Repr

/-- A line of the assembler (R70, R71). -/
inductive AsmLine where
  /-- A command by its mnemonic. -/
  | command (c : AsmCommand)
  /-- `W <reg>, v`. -/
  | write (r : WindowReg) (v : Nat)
  /-- `R <reg>`. -/
  | read (r : WindowReg)
  /-- `LDARG v`. -/
  | ldarg (v : Nat)
  /-- `A2P j, angle`; `q` is the host's `round_to_Q(angle)` (notes/assumptions/11.md). -/
  | a2p (j : Nat) (q : Word)
  /-- `CKSUM b1, ..., bn`, n ≥ 1. -/
  | cksum (b : Nat) (bs : List Nat)
  /-- `ENC_MOVE_J j, sid`. -/
  | encMoveJ (j sid : Nat)
  deriving DecidableEq, Repr

/-- A joint number in range (R70). -/
def jointOfNat (j : Nat) : Joint := if j = 0 then .flexion else .ulnar

/-- The instruction of a command whose operands are in range. -/
def AsmCommand.toInstr : AsmCommand → Instr
  | .encMove sid pos => .encMove (BitVec.ofNat 8 sid) (BitVec.ofNat 16 pos)
  | .encReadMoving sid => .encReadMoving (BitVec.ofNat 8 sid)
  | .ckInit => .ckInit
  | .ckByte b => .ckByte (BitVec.ofNat 8 b)
  | .ckFinal => .ckFinal
  | .mapA2p j => .mapA2p (jointOfNat j)
  | .mapP2a j p => .mapP2a (jointOfNat j) (BitVec.ofNat 12 p)

/-- The assembler: an operand outside its range is refused (R70). -/
def assemble (c : AsmCommand) : Except AsmError Instr :=
  if c.wellFormed then .ok (AsmCommand.toInstr c) else .error .operandOutOfRange

/-- The column "word" of the table of R70, as arithmetic. -/
def asmWord : AsmCommand → Nat
  | .encMove sid pos => 0x10000000 + sid * 2 ^ 16 + pos
  | .encReadMoving sid => 0x20000000 + sid * 2 ^ 16
  | .ckInit => 0x30000000
  | .ckByte b => 0x40000000 + b
  | .ckFinal => 0x50000000
  | .mapA2p j => 0x60000000 + j * 2 ^ 24
  | .mapP2a j p => 0x70000000 + j * 2 ^ 24 + p

/-- One command as a host access. -/
def assembleCommand (c : AsmCommand) : Except AsmError (List HostEvent) :=
  match assemble c with
  | .ok i => .ok [cmdWrite i]
  | .error e => .error e

/-- `W <reg>, v` (R70): a register holds 32 bits. -/
def assembleWrite (r : WindowReg) (v : Nat) : Except AsmError (List HostEvent) :=
  if v < 2 ^ 32 then .ok [memWrite r (BitVec.ofNat 32 v)] else .error .operandOutOfRange

/-- The accesses of `CKSUM b1, ..., bn` (R71). -/
def cksumEvents (bs : List Byte) : List HostEvent :=
  cmdWrite .ckInit :: (bs.map fun b => cmdWrite (.ckByte b)) ++ [cmdWrite .ckFinal]

/-- The first two accesses of `ENC_MOVE_J j, sid` (R71): `MAP_A2P j`, then `R RESULT`. -/
def encMoveJStart (j : Joint) : List HostEvent := [cmdWrite (.mapA2p j), memRead .result]

/-- The last access of `ENC_MOVE_J j, sid`: `ENC_MOVE sid, p` with the `p` the host read ("the host carries p"). -/
def encMoveJFinish (sid : Nat) (p : Word) : Except AsmError (List HostEvent) :=
  assembleCommand (.encMove sid p.toNat)

/-- The host accesses of a line. Those of `ENC_MOVE_J` depend on what the host reads: this gives the accesses up to
that read, and `encMoveJFinish` the rest. -/
def assembleLine : AsmLine → Except AsmError (List HostEvent)
  | .command c => assembleCommand c
  | .write r v => assembleWrite r v
  | .read r => .ok [memRead r]
  | .ldarg v => assembleWrite .arg v
  | .a2p j q =>
    match assembleCommand (.mapA2p j) with
    | .ok es => .ok (memWrite .arg q :: es)
    | .error e => .error e
  | .cksum b bs =>
    if (b :: bs).all (fun x => decide (x ≤ 255)) then .ok (cksumEvents ((b :: bs).map (BitVec.ofNat 8)))
    else .error .operandOutOfRange
  | .encMoveJ j sid =>
    if j ≤ 1 ∧ sid ≤ 255 then .ok (encMoveJStart (jointOfNat j)) else .error .operandOutOfRange

end Sys2Proof.Machine
end

