-- ==== Sys2Proof/Machine/AsmText.lean ====
section
/-! DEFINITION. The characters of an assembler line (30_encoding.md R70, R71): "one command per line, numbers in
decimal or `0x` hexadecimal, `;` starting a comment"; an underscore inside a number only groups digits (00_scope.md
R10). A line is a list of characters. -/

namespace Sys2Proof.Machine

/-- The value of a hexadecimal digit. -/
def hexDigit (c : Char) : Option Nat :=
  let n := c.toNat
  if 48 ≤ n ∧ n ≤ 57 then some (n - 48)
  else if 65 ≤ n ∧ n ≤ 70 then some (n - 55)
  else if 97 ≤ n ∧ n ≤ 102 then some (n - 87)
  else none

/-- The value of a digit of a number system. -/
def digitIn (base : Nat) (c : Char) : Option Nat :=
  match hexDigit c with
  | some d => if d < base then some d else none
  | none => none

/-- Digits, most significant first, with underscores between them ignored (R10). -/
def parseDigits (base : Nat) : Nat → List Char → Option Nat
  | acc, [] => some acc
  | acc, c :: cs =>
    if c = '_' then parseDigits base acc cs
    else
      match digitIn base c with
      | some d => parseDigits base (acc * base + d) cs
      | none => none

/-- A number begins with a digit. -/
def parseNumberIn (base : Nat) : List Char → Option Nat
  | [] => none
  | c :: cs =>
    match digitIn base c with
    | some d => parseDigits base d cs
    | none => none

/-- A number: `0x` hexadecimal or decimal (R70). -/
def parseNumber : List Char → Option Nat
  | '0' :: 'x' :: cs => parseNumberIn 16 cs
  | cs => parseNumberIn 10 cs

/-- White space of a line. -/
def isBlank (c : Char) : Bool := c == ' ' || c == '\t' || c == '\r' || c == '\n'

/-- A text without its outer white space. -/
def trimBlank (cs : List Char) : List Char :=
  ((cs.dropWhile isBlank).reverse.dropWhile isBlank).reverse

/-- The text before a comment (R70). -/
def stripComment (cs : List Char) : List Char := cs.takeWhile (· != ';')

/-- The operands between commas. -/
def splitCommas : List Char → List (List Char)
  | [] => [[]]
  | c :: cs =>
    match splitCommas cs with
    | [] => [[c]]
    | w :: ws => if c = ',' then [] :: w :: ws else (c :: w) :: ws

/-- The operands of a line: none where the text is empty. -/
def parseOperands (cs : List Char) : List (List Char) :=
  if cs.isEmpty then [] else (splitCommas cs).map trimBlank

/-- The name of a window register (20_memory.md R41). -/
def parseReg (cs : List Char) : Option WindowReg :=
  if cs = "CMD".toList then some .cmd
  else if cs = "ARG".toList then some .arg
  else if cs = "STATUS".toList then some .status
  else if cs = "RESULT".toList then some .result
  else if cs = "FRAME0".toList then some .frame0
  else if cs = "FRAME1".toList then some .frame1
  else if cs = "FRAME2".toList then some .frame2
  else none

/-- All operands as numbers. -/
def parseNumbers : List (List Char) → Option (List Nat)
  | [] => some []
  | w :: ws =>
    match parseNumber w, parseNumbers ws with
    | some n, some ns => some (n :: ns)
    | _, _ => none

/-- A line whose operands are numbers: the commands (R70) and the pseudo-commands `LDARG`, `CKSUM`, `ENC_MOVE_J`
(R71). -/
def numberLine (name : List Char) (ns : List Nat) : Option AsmLine :=
  match ns with
  | [] =>
    if name = "CK_INIT".toList then some (.command .ckInit)
    else if name = "CK_FINAL".toList then some (.command .ckFinal)
    else none
  | [a] =>
    if name = "ENC_READ_MOVING".toList then some (.command (.encReadMoving a))
    else if name = "CK_BYTE".toList then some (.command (.ckByte a))
    else if name = "MAP_A2P".toList then some (.command (.mapA2p a))
    else if name = "LDARG".toList then some (.ldarg a)
    else if name = "CKSUM".toList then some (.cksum a [])
    else none
  | a :: b :: ns =>
    if name = "CKSUM".toList then some (.cksum a (b :: ns))
    else if ns ≠ [] then none
    else if name = "ENC_MOVE".toList then some (.command (.encMove a b))
    else if name = "MAP_P2A".toList then some (.command (.mapP2a a b))
    else if name = "ENC_MOVE_J".toList then some (.encMoveJ a b)
    else none

/-- A line with a register operand: `W <reg>, v` and `R <reg>` (R70). -/
def registerLine (name : List Char) (ops : List (List Char)) : Option AsmLine :=
  match ops with
  | [r] => if name = "R".toList then (parseReg r).map AsmLine.read else none
  | [r, v] =>
    if name = "W".toList then
      match parseReg r, parseNumber v with
      | some reg, some n => some (.write reg n)
      | _, _ => none
    else none
  | _ => none

/-- A line of text: nothing where it is blank or a comment, else one line of R70 or R71. `A2P` takes a real angle,
whose conversion is the host's (R71): its expansion is `AsmLine.a2p`. -/
def parseLine (line : List Char) : Except AsmError (Option AsmLine) :=
  let body := trimBlank (stripComment line)
  if body.isEmpty then .ok none
  else
    let name := body.takeWhile (fun c => !isBlank c)
    let ops := parseOperands (trimBlank (body.dropWhile (fun c => !isBlank c)))
    if name = "A2P".toList then .error .hostConversion
    else
      match registerLine name ops with
      | some l => .ok (some l)
      | none =>
        match parseNumbers ops with
        | none => .error .malformedLine
        | some ns =>
          match numberLine name ns with
          | some l => .ok (some l)
          | none => .error .malformedLine

end Sys2Proof.Machine
end

