-- ==== Sys2Proof/Safety.lean ====
section
/-! DEFINITION. What statements about FCJM speak of: the states a step goes on from, the invariants of 10_state.md
(R25 to R31), the part of the state that is FCJM's own, the command a host event performs, and what a sequence of host
events should leave in the registers. -/

namespace Sys2Proof.Machine

/-- A step neither refuses the configuration (00_scope.md R9) nor meets a reserved ERR code
(93_implementation_defined.md I10). -/
abbrev Ready (s : State) : Prop := s.params.wellFormed = true ∧ s.err.toNat ≤ 2

/-- The invariants of the frame buffer (10_state.md R26). -/
abbrev FrameInv (s : State) : Prop :=
  (s.flen = 0 ∨ s.flen = 8 ∨ s.flen = 9) ∧
  (∀ i < 9, s.flen.toNat ≤ i → s.frame.bytes[i]? = some 0) ∧
  (s.flen ≠ 0 → s.frame.b0 = 0xFF ∧ s.frame.b1 = 0xFF ∧ checksumOf s.payload = s.packet.getLast?)

/-- "`length == 2 + len(parameters)`, so `n = length + 4`" for the packet of `n` bytes in FRAME (30_encoding.md R68). -/
abbrev LengthInv (s : State) : Prop := s.flen ≠ 0 → s.flen.toNat = s.frame.b3.toNat + 4

/-- With no byte fed since CK_INIT or reset the running sum is 0 (10_state.md R27, R28). -/
abbrev SumInv (s : State) : Prop := s.ckne = false → s.acc = 0

/-- The invariant of the whole machine: accepted parameters, a legal ERR (R31), a consistent frame, a consistent sum. -/
abbrev Inv (s : State) : Prop := Ready s ∧ FrameInv s ∧ LengthInv s ∧ SumInv s

/-- FCJM's own state, without the model's view of the host (notes/assumptions/1.md, 2.md). -/
def State.block (s : State) : State := { s with pending := [], response := .idle }

/-- The word an event writes to CMD, where it is a legal CMD write (20_memory.md R42, R43). -/
def cmdWord : HostEvent → Option Word
  | .access off n (.write c) => if off = 0 ∧ n = 4 then some c else none
  | .access _ _ .read => none
  | .reset => none

/-- The command an event performs: a legal CMD write of a word that decodes (30_encoding.md R67). -/
def eventCommand (e : HostEvent) : Option Instr :=
  (cmdWord e).bind fun c =>
    match decode c with
    | .ok i => some i
    | .error _ => none

/-- The command the next step performs, if it performs one. -/
def State.nextCommand (s : State) : Option Instr := s.pending.head?.bind eventCommand

/-- The commands that write RESULT on success (10_state.md R23). -/
def producesResult : Instr → Bool
  | .ckFinal => true
  | .mapA2p _ => true
  | .mapP2a _ _ => true
  | .encMove _ _ => false
  | .encReadMoving _ => false
  | .ckInit => false
  | .ckByte _ => false

/-- The packet-building commands (10_state.md R25). -/
def buildsPacket : Instr → Bool
  | .encMove _ _ => true
  | .encReadMoving _ => true
  | .ckInit => false
  | .ckByte _ => false
  | .ckFinal => false
  | .mapA2p _ => false
  | .mapP2a _ _ => false

/-- The commands that write ACC and CKNE (10_state.md R20, 70_reset_and_hazards.md R149). -/
def feedsSum : Instr → Bool
  | .ckInit => true
  | .ckByte _ => true
  | .encMove _ _ => false
  | .encReadMoving _ => false
  | .ckFinal => false
  | .mapA2p _ => false
  | .mapP2a _ _ => false

/-- The packet of a packet-building command as 95_test_vectors.md W5 lists its bytes, and nothing for another
command. -/
def wirePacket : Instr → Option (List Byte)
  | .encMove sid pos =>
    some [0xFF, 0xFF, sid, 0x05, 0x03, 0x2A, BitVec.ofNat 8 (pos.toNat % 256), BitVec.ofNat 8 (pos.toNat / 256),
      BitVec.ofNat 8 (255 - (sid.toNat + 0x32 + pos.toNat % 256 + pos.toNat / 256) % 256)]
  | .encReadMoving sid =>
    some [0xFF, 0xFF, sid, 0x04, 0x02, 0x42, 0x01, BitVec.ofNat 8 (255 - (sid.toNat + 0x49) % 256)]
  | .ckInit => none
  | .ckByte _ => none
  | .ckFinal => none
  | .mapA2p _ => none
  | .mapP2a _ _ => none

/-- The bytes fed to the streaming generator since the last CK_INIT or reset, after one more event (10_state.md R27). -/
def fedAfter (fed : List Byte) (e : HostEvent) : List Byte :=
  match e with
  | .reset => []
  | .access _ _ _ =>
    match eventCommand e with
    | some .ckInit => []
    | some (.ckByte b) => fed ++ [b]
    | _ => fed

/-- The last packet built since reset, after one more event (10_state.md R25). -/
def packetAfter (p : List Byte) (e : HostEvent) : List Byte :=
  match e with
  | .reset => []
  | .access _ _ _ => ((eventCommand e).bind wirePacket).getD p

/-- ACC is the sum modulo 256 of the bytes `fed`, and CKNE says whether there is one (10_state.md R27, R28). -/
abbrev HoldsSum (s : State) (fed : List Byte) : Prop :=
  s.acc.toNat = byteSum fed % 256 ∧ s.ckne = !fed.isEmpty

/-- `FRAME[0 .. FLEN-1]` is the packet `p`, FLEN its length, and the bytes above it are 0x00 (10_state.md R25). -/
abbrev HoldsPacket (s : State) (p : List Byte) : Prop :=
  s.packet = p ∧ s.flen.toNat = p.length ∧ ∀ i < 9, s.flen.toNat ≤ i → s.frame.bytes[i]? = some 0

/-- `sext_32` (00_scope.md R11), as arithmetic. -/
def sext32 (w : Word) : Int := if w.toNat < 2 ^ 31 then (w.toNat : Int) else (w.toNat : Int) - 2 ^ 32

/-- `n` steps of the machine, stopping at the first fault or refusal. -/
def runSteps (n : Nat) (s : State) : Host.Outcome State Fault Refusal := Host.Core.run Sys2Proof.core n s

/-- Twice the distance between a rounded value `q` and `N / D`, in units of `1/D`. -/
def roundingError (q n d : Int) : Int := 2 * (q * d - n)

/-- The parameters with other (informative) servo ids in the LUT (10_state.md R32). -/
def withServos (p : Params) (a b : Nat) : Params :=
  { p with cal := ⟨{ p.cal.entry0 with servo := a }, { p.cal.entry1 with servo := b }⟩ }

end Sys2Proof.Machine
end

