-- ==== Sys2Proof/Certificates/Slice0/Obligations.lean ====
section
/-! DEFINITION. The statements for the provers. In statements about a step or a run, the host's accesses stand in
`pending` and the answer to the last one in `response`: fields of the model's own (DESIGN CHOICE, notes/assumptions/1.md
and 2.md). `Ready s` says that the parameters are accepted (00_scope.md R9, notes/assumptions/5.md) and that ERR is no
reserved code (93_implementation_defined.md I10, notes/assumptions/6.md). -/

open Sys2Proof Sys2Proof.Machine

/-! ## Encoding -/

/-- 30_encoding.md section 2 and 5: the decoder reads back every command the encoder writes, with every operand. -/
def Obligations.DecodeReadsBackEncode : Prop :=
  ∀ i : Instr, decode (encode i) = .ok i

/-- 30_encoding.md section 4: a word that decodes is the word of its command; no bit is ignored. -/
def Obligations.EncodeReadsBackDecode : Prop :=
  ∀ (c : Word) (i : Instr), decode c = .ok i → encode i = c

/-- 30_encoding.md R64: the opcode map. A word is the command of exactly the rows it matches, and a word of a reserved
row is no command. -/
def Obligations.DecoderFollowsTheOpcodeMap : Prop :=
  ∀ c : Word,
    (∀ row ∈ [("ENC_MOVE", 0x10000000#32, 0xFF000000#32), ("ENC_READ_MOVING", 0x20000000#32, 0xFF00FFFF#32),
        ("CK_INIT", 0x30000000#32, 0xFFFFFFFF#32), ("CK_BYTE", 0x40000000#32, 0xFFFFFF00#32),
        ("CK_FINAL", 0x50000000#32, 0xFFFFFFFF#32), ("MAP_A2P", 0x60000000#32, 0xFEFFFFFF#32),
        ("MAP_P2A", 0x70000000#32, 0xFEFFF000#32)],
      (c &&& row.2.2 = row.2.1 ↔ ∃ i, decode c = .ok i ∧ mnemonic i = row.1)) ∧
    (∀ row ∈ [(0x00000000#32, 0xF0000000#32), (0x80000000#32, 0x80000000#32)],
      c &&& row.2 = row.1 → ∃ e, decode c = .error e)

/-- 30_encoding.md R65: a 1 in a must-be-zero bit of the format of an opcode 0x1 to 0x7 (a bit below 28, set in the
row's mask and clear in its match) makes the word illegal. -/
def Obligations.MustBeZeroBitsAreIllegal : Prop :=
  ∀ r ∈ opcodeRows, ∀ (c : Word) (k : Nat), opcodeField c = opcodeField r.pattern → k < 28 →
    r.mask.getLsbD k = true → r.pattern.getLsbD k = false → c.getLsbD k = true →
    decode c = .error (.mustBeZero (opcodeField c))

/-- 30_encoding.md section 5: each word written out from the spec's encoding decodes to its command. -/
def Obligations.SpecWordsDecode : Prop :=
  decode 0x10010800 = .ok (.encMove 1 2048) ∧ decode 0x20040000 = .ok (.encReadMoving 4) ∧
  decode 0x30000000 = .ok .ckInit ∧ decode 0x400000FF = .ok (.ckByte 0xFF) ∧ decode 0x50000000 = .ok .ckFinal ∧
  decode 0x61000000 = .ok (.mapA2p .ulnar) ∧ decode 0x70000801 = .ok (.mapP2a .flexion 2049)

/-- 30_encoding.md section 7 (the table of R70): the assembler's word of a command is the sum the table gives, and an
operand outside its range is refused. -/
def Obligations.AssemblerWritesTheTableWord : Prop :=
  ∀ c : AsmCommand,
    (c.wellFormed = true → ∃ i, assemble c = .ok i ∧ (encode i).toNat = asmWord c) ∧
    (c.wellFormed = false → assemble c = .error .operandOutOfRange)

/-! ## The step, the window and the host -/

/-- 30_encoding.md section 5: when the host's next access writes to CMD a word that decodes to `i`, the step is the
meaning of `i` on the state in which that access has been taken and answered (the model's own fields). -/
def Obligations.StepRunsTheDecodedCommand : Prop :=
  ∀ (s : State) (c : Word) (i : Instr) (rest : List HostEvent),
    Ready s → s.pending = memWrite .cmd c :: rest → decode c = .ok i →
    step s = exec i { s with pending := rest, response := .written }

/-- 60_exceptions.md R122, 30_encoding.md R66: a CMD write of a word that matches no row of the opcode map raises
ILLEGAL: ERR takes 1, STICKY is set, and no other FCJM state changes. -/
def Obligations.IllegalWordRaisesIllegal : Prop :=
  ∀ (s : State) (c : Word) (rest : List HostEvent),
    Ready s → s.pending = memWrite .cmd c :: rest → (∀ r ∈ opcodeRows, r.matches c = false) →
    step s = .next { s with err := 1, sticky := true, pending := rest, response := .written }

/-- 20_memory.md R43: what each legal access does, and that every other one is a bus error. The answer stands in
`response` (DESIGN CHOICE, notes/assumptions/2.md). -/
def Obligations.LegalAccessesDoWhatTheMapSays : Prop :=
  ∀ (s : State) (off : Nat) (kind : AccessKind) (rest : List HostEvent),
    Ready s → off % 4 = 0 → off ≤ 0x1F → s.pending = .access off 4 kind :: rest →
    step s =
      (match off, kind with
      | 0x00, .write c => execute c { s with pending := rest, response := .written }
      | 0x04, .write v => .next { s with arg := v, pending := rest, response := .written }
      | 0x04, .read => .next { s with pending := rest, response := .data s.arg }
      | 0x08, .read => .next { s with pending := rest, response := .data s.status }
      | 0x0C, .read => .next { s with pending := rest, response := .data s.result }
      | 0x10, .read =>
        .next { s with pending := rest, response := .data (s.frame.b3 ++ s.frame.b2 ++ s.frame.b1 ++ s.frame.b0) }
      | 0x14, .read =>
        .next { s with pending := rest, response := .data (s.frame.b7 ++ s.frame.b6 ++ s.frame.b5 ++ s.frame.b4) }
      | 0x18, .read => .next { s with pending := rest, response := .data (0#24 ++ s.frame.b8) }
      | _, _ => .next { s with pending := rest, response := .busError off })

/-- 60_exceptions.md R125: every cause of a bus error; the access is not performed, no FCJM state changes, the host
receives an error response and no data. That the machine goes on is a next state, and the answer stands in `response`
(notes/assumptions/2.md, 4.md). -/
def Obligations.BusErrorsChangeNothing : Prop :=
  ∀ (s : State) (off n : Nat) (kind : AccessKind) (rest : List HostEvent),
    Ready s → s.pending = .access off n kind :: rest →
    (n ≠ 4 ∨ off % 4 ≠ 0 ∨ 0x1F < off ∨ off = 0x1C ∨ (off = 0x00 ∧ kind = .read) ∨
      (∃ v, kind = .write v ∧ (off = 0x08 ∨ off = 0x0C ∨ off = 0x10 ∨ off = 0x14 ∨ off = 0x18))) →
    step s = .next { s with pending := rest, response := .busError off }

/-- 20_memory.md R44: a read, legal or not, changes no FCJM state, and two reads of a readable register with no write
between them return the same value. -/
def Obligations.ReadsHaveNoSideEffects : Prop :=
  (∀ (s : State) (off n : Nat) (rest : List HostEvent), Ready s → s.pending = .access off n .read :: rest →
    ∃ t, step s = .next t ∧ t.block = s.block ∧ t.pending = rest) ∧
  (∀ (s : State) (r : WindowReg) (rest : List HostEvent), Ready s → r ≠ .cmd →
    s.pending = memRead r :: memRead r :: rest →
    ∃ t u v, step s = .next t ∧ t.response = .data v ∧ step t = .next u ∧ u.response = .data v ∧ u.block = s.block)

/-- 10_state.md R22: the host writes ARG and reads the same value back, with any number of commands, reads and rejected
accesses between (none of them a legal ARG write or a reset). -/
def Obligations.ArgIsWrittenByTheHostOnly : Prop :=
  ∀ (s : State) (v : Word) (es rest : List HostEvent), Ready s →
    (∀ e ∈ es, e ≠ .reset ∧ ∀ w, e ≠ memWrite .arg w) →
    s.pending = memWrite .arg v :: es ++ memRead .arg :: rest →
    ∃ t, runSteps (es.length + 2) s = .next t ∧ t.arg = v ∧ t.response = .data v ∧ t.pending = rest

/-- 20_memory.md R46: little-endian packing of FRAME into the host words; FRAME2 reads zero above `FRAME[8]`. -/
def Obligations.FrameWordsAreLittleEndian : Prop :=
  ∀ (s : State) (i : Nat), i < 4 →
    byteLane s.frame0 i = s.frame.bytes.getD i 0 ∧
    byteLane s.frame1 i = s.frame.bytes.getD (4 + i) 0 ∧
    byteLane s.frame2 i = s.frame.bytes.getD (8 + i) 0

/-- 20_memory.md R48: byte address `BASE + off + i` holds bits `[8i+7 : 8i]` of the register at `off`. That CMD, which the
host cannot read, shows no byte is no rule of the spec but the model's choice (DESIGN CHOICE,
notes/assumptions/7.md). -/
def Obligations.WindowBytesAreLittleEndian : Prop :=
  ∀ (s : State) (r : WindowReg) (i : Nat), i < 4 →
    hostByte s (Config.base + regOffset r + i) = (readReg r s).map (fun w => w.extractLsb' (8 * i) 8)

/-- 10_state.md section 6 (the table of R31): the fields of STATUS at their bits, zero above. -/
def Obligations.StatusShowsItsFields : Prop :=
  ∀ s : State, s.status.extractLsb' 0 3 = s.err ∧ s.status.getLsbD 3 = s.ckne ∧ s.status.extractLsb' 4 4 = s.flen ∧
    s.status.getLsbD 8 = s.sticky ∧ s.status.extractLsb' 9 23 = 0

/-- 20_memory.md section 4: one access a step, in issue order: a step takes the oldest pending event and no other (the
list is the model's own, DESIGN CHOICE, notes/assumptions/1.md). -/
def Obligations.EachStepTakesOneHostEvent : Prop :=
  ∀ s t : State, step s = .next t → t.pending = s.pending.tail

/-- 00_scope.md section 7: with no host event FCJM does nothing ("it has no background activity"); that this is a step
that changes nothing is the model's choice (DESIGN CHOICE, notes/assumptions/3.md). -/
def Obligations.IdleStepChangesNothing : Prop :=
  ∀ s : State, Ready s → s.pending = [] → step s = .next s

/-! ## Reset -/

/-- 10_state.md R37: the values after reset. -/
def Obligations.ResetStateIsAllZero : Prop :=
  let s := State.reset
  s.arg = 0 ∧ s.result = 0 ∧ (∀ i < 9, s.frame.bytes[i]? = some 0) ∧ s.flen = 0 ∧ s.acc = 0 ∧ s.ckne = false ∧
  s.err = 0 ∧ s.sticky = false ∧ s.status = 0 ∧
  s.params.cal = ⟨⟨9, 5, 4095, 2048, 1500, 4095, 1⟩, ⟨61, 20, 1900, 2150, 1200, 3100, 4⟩⟩

/-- 70_reset_and_hazards.md R141: reset writes every piece of FCJM state from any state, and CAL keeps the parameter
value. A reset is an event of `pending` (DESIGN CHOICE, notes/assumptions/1.md and 8.md). -/
def Obligations.ResetWritesEveryRegister : Prop :=
  ∀ (s : State) (rest : List HostEvent), Ready s → s.pending = .reset :: rest →
    ∃ t, step s = .next t ∧ t.arg = 0 ∧ t.result = 0 ∧ t.frame = ⟨0, 0, 0, 0, 0, 0, 0, 0, 0⟩ ∧ t.flen = 0 ∧ t.acc = 0 ∧
      t.ckne = false ∧ t.err = 0 ∧ t.sticky = false ∧ t.status = 0 ∧ t.params = s.params ∧ t.pending = rest

/-- 10_state.md R26 to R31 at reset: the invariant holds of the reset state. -/
def Obligations.ResetStateMeetsInv : Prop := Inv State.reset

/-! ## Frame codec -/

/-- 40_frame_codec.md R83: ENC_MOVE completes for every SID and POS, its frame, its checksum, and everything else
unchanged; its encoding. -/
def Obligations.EncMoveBuildsTheWritePositionPacket : Prop :=
  ∀ (sid : BitVec 8) (pos : BitVec 16) (s : State),
    (encode (.encMove sid pos)).toNat = 0x10000000 + sid.toNat * 2 ^ 16 + pos.toNat ∧
    ∃ lo hi ck : Byte, lo.toNat = pos.toNat % 256 ∧ hi.toNat = pos.toNat / 256 ∧
      ck.toNat = 255 - (sid.toNat + 0x32 + lo.toNat + hi.toNat) % 256 ∧
      checksumOf [sid, 0x05, 0x03, 0x2A, lo, hi] = some ck ∧
      exec (.encMove sid pos) s =
        .next { s with frame := ⟨0xFF, 0xFF, sid, 0x05, 0x03, 0x2A, lo, hi, ck⟩, flen := 9, err := 0 }

/-- 40_frame_codec.md R84: ENC_READ_MOVING completes for every SID, its frame with FRAME[8] cleared, its checksum, and
everything else unchanged; its encoding. -/
def Obligations.EncReadMovingBuildsTheQueryPacket : Prop :=
  ∀ (sid : BitVec 8) (s : State),
    (encode (.encReadMoving sid)).toNat = 0x20000000 + sid.toNat * 2 ^ 16 ∧
    ∃ ck : Byte, ck.toNat = 255 - (sid.toNat + 0x49) % 256 ∧ checksumOf [sid, 0x04, 0x02, 0x42, 0x01] = some ck ∧
      exec (.encReadMoving sid) s =
        .next { s with frame := ⟨0xFF, 0xFF, sid, 0x04, 0x02, 0x42, 0x01, ck, 0x00⟩, flen := 8, err := 0 }

/-- 40_frame_codec.md R85: CK_INIT completes, clears the sum, and changes nothing else; its encoding. -/
def Obligations.CkInitStartsANewSum : Prop :=
  ∀ s : State, encode .ckInit = 0x30000000 ∧
    exec .ckInit s = .next { s with acc := 0, ckne := false, err := 0 }

/-- 40_frame_codec.md R86: CK_BYTE completes, adds its byte modulo 256, and changes nothing else; its encoding. -/
def Obligations.CkByteAddsModulo256 : Prop :=
  ∀ (b : BitVec 8) (s : State), (encode (.ckByte b)).toNat = 0x40000000 + b.toNat ∧
    ∃ a : Byte, a.toNat = (s.acc.toNat + b.toNat) % 256 ∧
      exec (.ckByte b) s = .next { s with acc := a, ckne := true, err := 0 }

/-- 40_frame_codec.md R87, the command's own pseudocode: CK_FINAL completes with RESULT the complement of ACC when a
byte has been added; otherwise it raises EMPTY and changes only ERR and STICKY; its encoding. -/
def Obligations.CkFinalDeliversTheComplement : Prop :=
  ∀ s : State, encode .ckFinal = 0x50000000 ∧
    (s.ckne = true → ∃ r : Word, r.toNat = 255 - s.acc.toNat ∧
      exec .ckFinal s = .next { s with result := r, err := 0 }) ∧
    (s.ckne = false → exec .ckFinal s = .next { s with err := 2, sticky := true })

/-- 40_frame_codec.md section 1: the checksum of a non-empty sequence is the source's `(~sum) & 0xFF` (Python's `~` on
the integer sum), equals the sum modulo 256 XOR 0xFF, and does not depend on the order of the bytes (an inference the
spec marks as its own: "[derived: from rule R81 and 00_scope.md rule R12]"). -/
def Obligations.ChecksumIsTheComplementOfTheSum : Prop :=
  ∀ (b : Byte) (bs : List Byte),
    ((checksum b bs).toNat : Int) = (-(byteSum (b :: bs) : Int) - 1) % 256 ∧
    (checksum b bs).toNat = (byteSum (b :: bs) % 256) ^^^ 255 ∧
    (∀ (c : Byte) (cs : List Byte), (b :: bs).Perm (c :: cs) → checksum c cs = checksum b bs)

/-- 40_frame_codec.md section 3: "after CK_INIT, CK_BYTE b1 ... CK_BYTE bk (k ≥ 1), CK_FINAL, RESULT =
Checksum([b1, ..., bk])" (an inference the spec marks as its own), over runs of the machine from every state, whatever
the length of the sequence; nothing but RESULT, ACC, CKNE and ERR changes. -/
def Obligations.StreamingGivesTheChecksum : Prop :=
  ∀ (s : State) (b : Byte) (bs : List Byte) (rest : List HostEvent),
    Ready s → s.pending = cksumEvents (b :: bs) ++ rest →
    ∃ (t : State) (a : Byte), runSteps (bs.length + 3) s = .next t ∧ a.toNat = byteSum (b :: bs) % 256 ∧
      t = { s with result := (checksum b bs).setWidth 32, acc := a, ckne := true, err := 0, pending := rest,
                   response := .written }

/-- 40_frame_codec.md section 4: "recomputing the checksum over the payload (excluding the checksum byte) reproduces
the last byte", and feeding the payload through CK_INIT, CK_BYTE and CK_FINAL writes the last byte to RESULT (an
inference the spec marks as its own). -/
def Obligations.BuiltPacketsCheckThemselves : Prop :=
  ∀ (s : State) (i : Instr), Ready s → buildsPacket i = true →
    ∃ (t u : State) (ck : Byte), exec i s = .next t ∧ t.packet.getLast? = some ck ∧ checksumOf t.payload = some ck ∧
      runSteps (t.payload.length + 2) { t with pending := cksumEvents t.payload } = .next u ∧
      u.result = ck.setWidth 32 ∧ u.frame = t.frame ∧ u.flen = t.flen

/-- 10_state.md R27 and R28 over whole runs: after any sequence of host events from reset, ACC is the sum modulo 256 of
the bytes fed since the last CK_INIT or reset, and CKNE says whether there was one. Illegal words, bus errors and other
commands do not matter. -/
def Obligations.SumHoldsTheBytesFedSinceInit : Prop :=
  ∀ es : List HostEvent, ∃ t, runSteps es.length { State.reset with pending := es } = .next t ∧
    HoldsSum t (es.foldl fedAfter [])

/-- 10_state.md R25 over whole runs: after any sequence of host events from reset, `FRAME[0 .. FLEN-1]` is the last
packet built since reset, byte for byte, `FLEN` its length (0 when there is none), and the bytes above it are 0x00. -/
def Obligations.FrameHoldsTheLastPacket : Prop :=
  ∀ es : List HostEvent, ∃ t, runSteps es.length { State.reset with pending := es } = .next t ∧
    HoldsPacket t (es.foldl packetAfter [])

/-- 10_state.md section 5: ACC is hidden ("a program observes it only through the value CK_FINAL writes to `RESULT`"):
two runs that differ only in ACC give the host the same answers and the same state but for ACC, as long as no CK_FINAL
is performed. -/
def Obligations.AccIsHiddenButForCkFinal : Prop :=
  ∀ (n : Nat) (s t : State) (a : Byte), (∀ e ∈ s.pending, eventCommand e ≠ some .ckFinal) →
    runSteps n s = .next t → ∃ b : Byte, runSteps n { s with acc := a } = .next { t with acc := b }

/-! ## Joint mapper -/

/-- 41_joint_mapper.md R101: the derived ratio is 360 over the product of the gear ratio and the range, as an exact
rational, and its values for the default LUT. -/
def Obligations.DegreesPerPositionIsExact : Prop :=
  (∀ e : CalEntry, degreesPerPosition e = 360 / (((e.grn : Rat) / (e.grd : Rat)) * (e.range : Rat))) ∧
  degreesPerPosition (calEntry defaultCal .flexion) = 40 / 819 ∧
  degreesPerPosition (calEntry defaultCal .ulnar) = 72 / 1159

/-- 41_joint_mapper.md R102: both modes round to a nearest integer; at an exact half `HALF_AWAY` moves away from zero and
`HALF_EVEN` to the even neighbour; the formulas and the examples of the rule. -/
def Obligations.RoundQRoundsToNearest : Prop :=
  ∀ n d : Int, 0 < d →
    (roundQ .halfAway n d = if 0 ≤ n then (2 * n + d) / (2 * d) else -((-2 * n + d) / (2 * d))) ∧
    (roundQ .halfEven n d =
      if 2 * (n % d) < d then n / d else if d < 2 * (n % d) then n / d + 1
      else if n / d % 2 = 0 then n / d else n / d + 1) ∧
    (∀ mode, |roundingError (roundQ mode n d) n d| ≤ d) ∧
    (∀ q : Int, |roundingError q n d| = d →
      |n| < |roundQ .halfAway n d * d| ∧ roundQ .halfEven n d % 2 = 0) ∧
    roundQ .halfAway 4915 2 = 2458 ∧ roundQ .halfAway 3277 2 = 1639 ∧ roundQ .halfAway (-1) 2 = -1 ∧
    roundQ .halfEven 3277 2 = 1638

/-- 41_joint_mapper.md R104: MAP_A2P completes for every joint and every angle, with the rounded and clamped position
zero-extended in RESULT and nothing else changed but ERR; its encoding. The parameters are accepted (00_scope.md R9). -/
def Obligations.MapA2pGivesTheClampedPosition : Prop :=
  ∀ (j : Joint) (s : State),
    (encode (.mapA2p j)).toNat = 0x60000000 + (bitOfJoint j).toNat * 2 ^ 24 ∧
    (s.params.wellFormed = true →
      let e := calEntry s.params.cal j
      let d : Int := (e.grd : Int) * 360 * 2 ^ s.params.angleFracBits
      let n : Int := (e.center : Int) * d + sext32 s.arg * (e.grn : Int) * (e.range : Int)
      let p : Int := roundQ s.params.roundMode n d
      0 < d ∧ ∃ r : Word,
        (r.toNat : Int) = (if p < (e.min : Int) then (e.min : Int) else if (e.max : Int) < p then (e.max : Int) else p) ∧
        exec (.mapA2p j) s = .next { s with result := r, err := 0 })

/-- 41_joint_mapper.md R105: MAP_P2A completes for every joint and every 12-bit position, with the rounded angle in two's
complement in RESULT (it fits) and nothing else changed but ERR; its encoding. The parameters are accepted
(00_scope.md R9). -/
def Obligations.MapP2aGivesTheAngle : Prop :=
  ∀ (j : Joint) (p : BitVec 12) (s : State),
    (encode (.mapP2a j p)).toNat = 0x70000000 + (bitOfJoint j).toNat * 2 ^ 24 + p.toNat ∧
    (s.params.wellFormed = true →
      let e := calEntry s.params.cal j
      let n : Int := ((p.toNat : Int) - (e.center : Int)) * 360 * (e.grd : Int) * 2 ^ s.params.angleFracBits
      let d : Int := (e.grn : Int) * (e.range : Int)
      0 < d ∧ ∃ r : Word, sext32 r = roundQ s.params.roundMode n d ∧
        exec (.mapP2a j p) s = .next { s with result := r, err := 0 })

/-- 41_joint_mapper.md sections 1 and 2: the integers the mapper divides stand for the formulas of the source:
`N / D = CENTER + angle / dpp(e)` for MAP_A2P and `N / D = (p - CENTER) * dpp(e) * 2^F` for MAP_P2A, exactly. -/
def Obligations.MapperFractionsAreTheFormulas : Prop :=
  ∀ (e : CalEntry) (frac : Nat), 1 ≤ e.grn → 1 ≤ e.grd → 1 ≤ e.range →
    (∀ a : Int, (a2pNumerator frac e a : Rat) / (a2pDenominator frac e : Rat) =
      (e.center : Rat) + ((a : Rat) / 2 ^ frac) / degreesPerPosition e) ∧
    (∀ pos : Nat, (p2aNumerator frac e pos : Rat) / (p2aDenominator e : Rat) =
      ((pos : Rat) - (e.center : Rat)) * degreesPerPosition e * 2 ^ frac)

/-- 41_joint_mapper.md section 3: MAP_A2P is monotone in the signed angle and its RESULT never leaves `[MIN, MAX]`, so
`RESULT[31:12]` is 0 (an inference the spec marks as its own). -/
def Obligations.MapA2pIsMonotoneWithinTheClamp : Prop :=
  ∀ (j : Joint) (s : State) (w : Word), s.params.wellFormed = true → sext32 s.arg ≤ sext32 w →
    ∃ t u, exec (.mapA2p j) s = .next t ∧ exec (.mapA2p j) { s with arg := w } = .next u ∧
      t.result.toNat ≤ u.result.toNat ∧
      (calEntry s.params.cal j).min ≤ t.result.toNat ∧ u.result.toNat ≤ (calEntry s.params.cal j).max ∧
      t.result.extractLsb' 12 20 = 0

/-- 41_joint_mapper.md section 3 (the table of R107, "[derived: from rule R104, by exhaustive bisection over ARG]"): for
the default LUT and F = 16, under either rounding mode, the exact angles at which MAP_A2P saturates, and the positions
next to them. -/
def Obligations.MapA2pSaturatesExactlyAtTheThresholds : Prop :=
  ∀ (j : Joint) (s : State), s.params.cal = defaultCal → s.params.angleFracBits = 16 →
    ∃ t, exec (.mapA2p j) s = .next t ∧
      (match j with
      | .flexion =>
        (t.result = 1500 ↔ sext32 s.arg ≤ sext32 0xFFE54294) ∧ (t.result = 4095 ↔ sext32 0x0063F380 ≤ sext32 s.arg) ∧
        (s.arg = 0xFFE54295 → t.result = 1501) ∧ (s.arg = 0x0063F37F → t.result = 4094)
      | .ulnar =>
        (t.result = 1200 ↔ sext32 s.arg ≤ sext32 0xFFC503C1) ∧ (t.result = 3100 ↔ sext32 0x003AFC3F ≤ sext32 s.arg) ∧
        (s.arg = 0xFFC503C2 → t.result = 1201) ∧ (s.arg = 0x003AFC3E → t.result = 3099))

/-- 41_joint_mapper.md section 3 (R108 (a)): for the default LUT and F = 16, mapping a position in `[MIN, MAX]` to an
angle and that angle back gives the position again, under either rounding mode (an inference the spec marks as its
own). -/
def Obligations.PositionSurvivesTheRoundTrip : Prop :=
  ∀ (j : Joint) (p : BitVec 12) (s : State), s.params.cal = defaultCal → s.params.angleFracBits = 16 →
    (calEntry defaultCal j).min ≤ p.toNat → p.toNat ≤ (calEntry defaultCal j).max →
    ∃ t u, exec (.mapP2a j p) s = .next t ∧ exec (.mapA2p j) { t with arg := t.result } = .next u ∧
      u.result.toNat = p.toNat

/-- 41_joint_mapper.md section 3 (R108 (b)): an angle whose rounded sum lies in `[MIN, MAX]` comes back within
`dpp/2 + 2^-(F+1)` degrees, for every accepted LUT, number of fraction bits and rounding mode; for the default LUT and
F = 16 that is less than one `dpp` (an inference the spec marks as its own). -/
def Obligations.AngleComesBackWithinHalfAPosition : Prop :=
  ∀ (j : Joint) (s : State), s.params.wellFormed = true →
    let e := calEntry s.params.cal j
    let frac := s.params.angleFracBits
    (e.min : Int) ≤ a2pRounded s.params e (sext32 s.arg) → a2pRounded s.params e (sext32 s.arg) ≤ (e.max : Int) →
    ∃ t u, exec (.mapA2p j) s = .next t ∧ exec (.mapP2a j (t.result.setWidth 12)) t = .next u ∧
      |(sext32 u.result : Rat) / 2 ^ frac - (sext32 s.arg : Rat) / 2 ^ frac| ≤
        degreesPerPosition e / 2 + 1 / 2 ^ (frac + 1) ∧
      (s.params.cal = defaultCal → frac = 16 →
        |(sext32 u.result : Rat) / 2 ^ frac - (sext32 s.arg : Rat) / 2 ^ frac| < degreesPerPosition e)

/-- 41_joint_mapper.md section 3 (R109, "[derived: from rule R33 and rule R100]"): for the default LUT and F = 16 the
intermediates fit: `|a × GRN × RANGE| < 2^48`, `D < 2^29` and `|N| < 2^49` in MAP_A2P, `|N| < 2^40` and `D < 2^17` in
MAP_P2A. -/
def Obligations.MapperIntermediatesFit : Prop :=
  ∀ (j : Joint) (w : Word) (p : BitVec 12),
    let e := calEntry defaultCal j
    |sext32 w * (e.grn : Int) * (e.range : Int)| < 2 ^ 48 ∧ a2pDenominator 16 e < 2 ^ 29 ∧
    |a2pNumerator 16 e (sext32 w)| < 2 ^ 49 ∧ |p2aNumerator 16 e p.toNat| < 2 ^ 40 ∧ p2aDenominator e < 2 ^ 17

/-- 41_joint_mapper.md section 2 (an inference the spec marks as its own: "checked for every P 0 to 4095"): with the
default LUT and F = 16 the rounding mode changes no MAP_P2A result, and no result is larger in magnitude than 8,753,212,
which MAP_P2A 1, 0 gives. -/
def Obligations.RoundModeDoesNotMatterToMapP2a : Prop :=
  ∀ (j : Joint) (p : BitVec 12) (s : State), s.params.cal = defaultCal → s.params.angleFracBits = 16 →
    ∃ r : Word, (∀ mode, exec (.mapP2a j p) { s with params := { s.params with roundMode := mode } } =
        .next { s with params := { s.params with roundMode := mode }, result := r, err := 0 }) ∧
      |sext32 r| ≤ 8753212 ∧ (j = .ulnar → p = 0 → sext32 r = -8753212)

/-- 41_joint_mapper.md section 3: no command reads the `SERVO` field: with other servo ids in the LUT every command
that answers a next state gives the same state, but for those ids. -/
def Obligations.ServoIdsOfTheLutAreNotRead : Prop :=
  ∀ (i : Instr) (s t : State) (a b : Nat), exec i s = .next t →
    exec i { s with params := withServos s.params a b } = .next { t with params := withServos t.params a b }

/-- 10_state.md section 7: the model's check of the parameters, which tests MAP_P2A at the two ends of its input only
(DEDUCED, notes/assumptions/10.md), accepts exactly the parameters of the spec's words: F at most 31 and, for each entry,
the bounds and a MAP_P2A result that fits for every input position. -/
def Obligations.ParameterCheckIsTheSpecsCondition : Prop :=
  ∀ p : Params, p.wellFormed = true ↔ ParamsAccepted p

/-- 10_state.md section 7 (an inference the spec marks as its own): the default CAL is well-formed, under either
rounding mode. -/
def Obligations.DefaultParametersAreWellFormed : Prop :=
  ∀ mode, Params.wellFormed { defaultParams with roundMode := mode } = true

/-- 10_state.md R34 ("A model refuses a configuration that is not"): under parameters outside the spec's condition no
step and no mapper command gives a next state. The form of the refusal is the model's (notes/assumptions/5.md). -/
def Obligations.IllFormedParametersAreRefused : Prop :=
  ∀ (s : State) (j : Joint) (p : BitVec 12), ¬ ParamsAccepted s.params →
    step s = .refused .illFormedParameters ∧ exec (.mapA2p j) s = .refused .illFormedParameters ∧
    exec (.mapP2a j p) s = .refused .illFormedParameters

/-- 93_implementation_defined.md I10 ("a model that meets one has departed from the spec: `fault`"): a step from a state
with a reserved ERR code faults (notes/assumptions/6.md). -/
def Obligations.ReservedErrCodeFaults : Prop :=
  ∀ s : State, s.params.wellFormed = true → 3 ≤ s.err.toNat → step s = .fault .reservedErrCode

/-! ## The whole machine -/

/-- 60_exceptions.md R123 and R122: whatever the command, it ends in success (ERR 0, STICKY unchanged) or, for CK_FINAL
with CKNE 0 alone, in EMPTY with ERR and STICKY the only state changed; no command is stopped for its operands. The
parameters are accepted (00_scope.md R9). -/
def Obligations.EveryCommandSucceedsButEmptyCkFinal : Prop :=
  ∀ (i : Instr) (s : State), s.params.wellFormed = true →
    ∃ t, exec i s = .next t ∧
      ((i = .ckFinal ∧ s.ckne = false ∧ t = { s with err := 2, sticky := true }) ∨
       (¬ (i = .ckFinal ∧ s.ckne = false) ∧ t.err = 0 ∧ t.sticky = s.sticky))

/-- 10_state.md R29: every CMD write gives ERR one of its three codes; an access that is no CMD write, and a bus error,
leave it unchanged; reset clears it. -/
def Obligations.ErrIsWrittenByCommandsOnly : Prop :=
  ∀ (s t : State) (e : HostEvent) (rest : List HostEvent), s.pending = e :: rest → step s = .next t →
    (∀ c, cmdWord e = some c →
      (t.err = 0 ∧ ∃ i, decode c = .ok i) ∨ (t.err = 1 ∧ ∃ x, decode c = .error x) ∨
      (t.err = 2 ∧ decode c = .ok .ckFinal ∧ s.ckne = false)) ∧
    (cmdWord e = none → e ≠ .reset → t.err = s.err) ∧ (e = .reset → t.err = 0)

/-- 10_state.md R30 over whole runs: once set, STICKY stays set until a reset; and a run with no reset in which STICKY
stays clear has met no failing command. -/
def Obligations.StickyHoldsUntilReset : Prop :=
  ∀ (n : Nat) (s t : State), (∀ e ∈ s.pending, e ≠ .reset) → runSteps n s = .next t →
    (s.sticky = true → t.sticky = true) ∧
    (t.sticky = false → ∀ (k : Nat) (u : State), k ≤ n → runSteps k s = .next u →
      u.sticky = false ∧ (s.err = 0 → u.err = 0))

/-- 70_reset_and_hazards.md section 3 (R145, R147, R149): FRAME and FLEN change only in a packet-building command, RESULT
only in a successful result-producing command, ACC and CKNE only in CK_INIT and CK_BYTE, and all of them in reset. -/
def Obligations.EachRegisterChangesOnlyByItsCommands : Prop :=
  ∀ s t : State, step s = .next t → s.pending.head? ≠ some .reset →
    ((∀ i, s.nextCommand = some i → buildsPacket i = false) → t.frame = s.frame ∧ t.flen = s.flen) ∧
    ((∀ i, s.nextCommand = some i → producesResult i = false ∨ (i = .ckFinal ∧ s.ckne = false)) →
      t.result = s.result) ∧
    ((∀ i, s.nextCommand = some i → feedsSum i = false) → t.acc = s.acc ∧ t.ckne = s.ckne)

/-- 10_state.md section 7: no host access, no command and no reset changes the LUT or the other parameters. -/
def Obligations.ParametersNeverChange : Prop :=
  ∀ (n : Nat) (s t : State), runSteps n s = .next t → t.params = s.params

/-- 10_state.md sections 4 to 6 (R26, an inference the spec marks as its own, R28, R31): every step from a state that
meets the invariant gives a state that meets it. -/
def Obligations.StepKeepsInv : Prop :=
  ∀ s t : State, Inv s → step s = .next t → Inv t

/-- 60_exceptions.md section 1 ("No operation is fatal to the process"): from every state that meets the invariant, for
every sequence of host events, the machine never faults and is never refused. -/
def Obligations.NoHostSequenceStopsTheMachine : Prop :=
  ∀ (n : Nat) (s : State), Inv s → ∃ t, runSteps n s = .next t ∧ Inv t

/-- 30_encoding.md section 7 (the expansion of `ENC_MOVE_J j, sid`): MAP_A2P, the read of RESULT, and ENC_MOVE with the
position the host carries leave in FRAME the "write position" packet of the clamped position of ARG. -/
def Obligations.EncMoveJSendsTheMappedPosition : Prop :=
  ∀ (s : State) (j : Joint) (sid : BitVec 8), Ready s → s.pending = encMoveJStart j →
    ∃ (t u : State) (r : Word) (es : List HostEvent),
      runSteps 2 s = .next t ∧ t.response = .data r ∧ encMoveJFinish sid.toNat r = .ok es ∧
      runSteps 1 { t with pending := es } = .next u ∧
      (r.toNat : Int) = a2pPosition s.params (calEntry s.params.cal j) (sext32 s.arg) ∧
      wirePacket (.encMove sid (r.setWidth 16)) = some u.packet

/-- 10_state.md section 5 (R27 and R28) as an invariant of the step: from every ready state whose ACC is the sum modulo
256 of the bytes `fed` and whose CKNE says whether there is one, the step on any event answers a state of which the same
holds for the bytes fed after that event. Pending is the model's own field (DESIGN CHOICE, notes/assumptions/1.md). -/
def Obligations.StepKeepsTheSumOfTheBytesFed : Prop :=
  ∀ (s : State) (fed : List Byte) (e : HostEvent) (rest : List HostEvent),
    Ready s → HoldsSum s fed → s.pending = e :: rest →
    ∃ t, step s = .next t ∧ HoldsSum t (fedAfter fed e) ∧ Ready t ∧ t.pending = rest

/-- 10_state.md section 4 (R25) as an invariant of the step: from every ready state whose FRAME holds the packet `p` (its
bytes in order, FLEN its length, zero bytes above), the step on any event answers a state whose FRAME holds the last
packet after that event. Pending is the model's own field (DESIGN CHOICE, notes/assumptions/1.md). -/
def Obligations.StepKeepsTheLastPacket : Prop :=
  ∀ (s : State) (p : List Byte) (e : HostEvent) (rest : List HostEvent),
    Ready s → HoldsPacket s p → s.pending = e :: rest →
    ∃ t, step s = .next t ∧ HoldsPacket t (packetAfter p e) ∧ Ready t ∧ t.pending = rest
end

