-- ==== Sys2Proof/Laws/State.lean ====
section
/-! SUPPORT. One lemma per field of State per update of Sys2Proof/Machine/Ops.lean and Flags.lean, and the fields of
the reset state: later proofs do not unfold a record update. -/

namespace Sys2Proof.Machine

@[simp] theorem State.succeed_arg (s : State) : (s.succeed).arg = s.arg := rfl
@[simp] theorem State.succeed_result (s : State) : (s.succeed).result = s.result := rfl
@[simp] theorem State.succeed_frame (s : State) : (s.succeed).frame = s.frame := rfl
@[simp] theorem State.succeed_flen (s : State) : (s.succeed).flen = s.flen := rfl
@[simp] theorem State.succeed_acc (s : State) : (s.succeed).acc = s.acc := rfl
@[simp] theorem State.succeed_ckne (s : State) : (s.succeed).ckne = s.ckne := rfl
@[simp] theorem State.succeed_err (s : State) : (s.succeed).err = errOk := rfl
@[simp] theorem State.succeed_sticky (s : State) : (s.succeed).sticky = s.sticky := rfl
@[simp] theorem State.succeed_params (s : State) : (s.succeed).params = s.params := rfl
@[simp] theorem State.succeed_pending (s : State) : (s.succeed).pending = s.pending := rfl
@[simp] theorem State.succeed_response (s : State) : (s.succeed).response = s.response := rfl

@[simp] theorem State.raise_arg (s : State) (code : BitVec 3) : (s.raise code).arg = s.arg := rfl
@[simp] theorem State.raise_result (s : State) (code : BitVec 3) : (s.raise code).result = s.result := rfl
@[simp] theorem State.raise_frame (s : State) (code : BitVec 3) : (s.raise code).frame = s.frame := rfl
@[simp] theorem State.raise_flen (s : State) (code : BitVec 3) : (s.raise code).flen = s.flen := rfl
@[simp] theorem State.raise_acc (s : State) (code : BitVec 3) : (s.raise code).acc = s.acc := rfl
@[simp] theorem State.raise_ckne (s : State) (code : BitVec 3) : (s.raise code).ckne = s.ckne := rfl
@[simp] theorem State.raise_err (s : State) (code : BitVec 3) : (s.raise code).err = code := rfl
@[simp] theorem State.raise_sticky (s : State) (code : BitVec 3) : (s.raise code).sticky = true := rfl
@[simp] theorem State.raise_params (s : State) (code : BitVec 3) : (s.raise code).params = s.params := rfl
@[simp] theorem State.raise_pending (s : State) (code : BitVec 3) : (s.raise code).pending = s.pending := rfl
@[simp] theorem State.raise_response (s : State) (code : BitVec 3) : (s.raise code).response = s.response := rfl

@[simp] theorem State.setResult_arg (s : State) (v : Word) : (s.setResult v).arg = s.arg := rfl
@[simp] theorem State.setResult_result (s : State) (v : Word) : (s.setResult v).result = v := rfl
@[simp] theorem State.setResult_frame (s : State) (v : Word) : (s.setResult v).frame = s.frame := rfl
@[simp] theorem State.setResult_flen (s : State) (v : Word) : (s.setResult v).flen = s.flen := rfl
@[simp] theorem State.setResult_acc (s : State) (v : Word) : (s.setResult v).acc = s.acc := rfl
@[simp] theorem State.setResult_ckne (s : State) (v : Word) : (s.setResult v).ckne = s.ckne := rfl
@[simp] theorem State.setResult_err (s : State) (v : Word) : (s.setResult v).err = s.err := rfl
@[simp] theorem State.setResult_sticky (s : State) (v : Word) : (s.setResult v).sticky = s.sticky := rfl
@[simp] theorem State.setResult_params (s : State) (v : Word) : (s.setResult v).params = s.params := rfl
@[simp] theorem State.setResult_pending (s : State) (v : Word) : (s.setResult v).pending = s.pending := rfl
@[simp] theorem State.setResult_response (s : State) (v : Word) : (s.setResult v).response = s.response := rfl

@[simp] theorem State.setArg_arg (s : State) (v : Word) : (s.setArg v).arg = v := rfl
@[simp] theorem State.setArg_result (s : State) (v : Word) : (s.setArg v).result = s.result := rfl
@[simp] theorem State.setArg_frame (s : State) (v : Word) : (s.setArg v).frame = s.frame := rfl
@[simp] theorem State.setArg_flen (s : State) (v : Word) : (s.setArg v).flen = s.flen := rfl
@[simp] theorem State.setArg_acc (s : State) (v : Word) : (s.setArg v).acc = s.acc := rfl
@[simp] theorem State.setArg_ckne (s : State) (v : Word) : (s.setArg v).ckne = s.ckne := rfl
@[simp] theorem State.setArg_err (s : State) (v : Word) : (s.setArg v).err = s.err := rfl
@[simp] theorem State.setArg_sticky (s : State) (v : Word) : (s.setArg v).sticky = s.sticky := rfl
@[simp] theorem State.setArg_params (s : State) (v : Word) : (s.setArg v).params = s.params := rfl
@[simp] theorem State.setArg_pending (s : State) (v : Word) : (s.setArg v).pending = s.pending := rfl
@[simp] theorem State.setArg_response (s : State) (v : Word) : (s.setArg v).response = s.response := rfl

@[simp] theorem State.setSum_arg (s : State) (acc : Byte) (ckne : Bool) : (s.setSum acc ckne).arg = s.arg := rfl
@[simp] theorem State.setSum_result (s : State) (acc : Byte) (ckne : Bool) : (s.setSum acc ckne).result = s.result := rfl
@[simp] theorem State.setSum_frame (s : State) (acc : Byte) (ckne : Bool) : (s.setSum acc ckne).frame = s.frame := rfl
@[simp] theorem State.setSum_flen (s : State) (acc : Byte) (ckne : Bool) : (s.setSum acc ckne).flen = s.flen := rfl
@[simp] theorem State.setSum_acc (s : State) (acc : Byte) (ckne : Bool) : (s.setSum acc ckne).acc = acc := rfl
@[simp] theorem State.setSum_ckne (s : State) (acc : Byte) (ckne : Bool) : (s.setSum acc ckne).ckne = ckne := rfl
@[simp] theorem State.setSum_err (s : State) (acc : Byte) (ckne : Bool) : (s.setSum acc ckne).err = s.err := rfl
@[simp] theorem State.setSum_sticky (s : State) (acc : Byte) (ckne : Bool) : (s.setSum acc ckne).sticky = s.sticky := rfl
@[simp] theorem State.setSum_params (s : State) (acc : Byte) (ckne : Bool) : (s.setSum acc ckne).params = s.params := rfl
@[simp] theorem State.setSum_pending (s : State) (acc : Byte) (ckne : Bool) : (s.setSum acc ckne).pending = s.pending := rfl
@[simp] theorem State.setSum_response (s : State) (acc : Byte) (ckne : Bool) : (s.setSum acc ckne).response = s.response := rfl

@[simp] theorem State.respond_arg (s : State) (r : Response) : (s.respond r).arg = s.arg := rfl
@[simp] theorem State.respond_result (s : State) (r : Response) : (s.respond r).result = s.result := rfl
@[simp] theorem State.respond_frame (s : State) (r : Response) : (s.respond r).frame = s.frame := rfl
@[simp] theorem State.respond_flen (s : State) (r : Response) : (s.respond r).flen = s.flen := rfl
@[simp] theorem State.respond_acc (s : State) (r : Response) : (s.respond r).acc = s.acc := rfl
@[simp] theorem State.respond_ckne (s : State) (r : Response) : (s.respond r).ckne = s.ckne := rfl
@[simp] theorem State.respond_err (s : State) (r : Response) : (s.respond r).err = s.err := rfl
@[simp] theorem State.respond_sticky (s : State) (r : Response) : (s.respond r).sticky = s.sticky := rfl
@[simp] theorem State.respond_params (s : State) (r : Response) : (s.respond r).params = s.params := rfl
@[simp] theorem State.respond_pending (s : State) (r : Response) : (s.respond r).pending = s.pending := rfl
@[simp] theorem State.respond_response (s : State) (r : Response) : (s.respond r).response = r := rfl

@[simp] theorem State.setPending_arg (s : State) (es : List HostEvent) : (s.setPending es).arg = s.arg := rfl
@[simp] theorem State.setPending_result (s : State) (es : List HostEvent) : (s.setPending es).result = s.result := rfl
@[simp] theorem State.setPending_frame (s : State) (es : List HostEvent) : (s.setPending es).frame = s.frame := rfl
@[simp] theorem State.setPending_flen (s : State) (es : List HostEvent) : (s.setPending es).flen = s.flen := rfl
@[simp] theorem State.setPending_acc (s : State) (es : List HostEvent) : (s.setPending es).acc = s.acc := rfl
@[simp] theorem State.setPending_ckne (s : State) (es : List HostEvent) : (s.setPending es).ckne = s.ckne := rfl
@[simp] theorem State.setPending_err (s : State) (es : List HostEvent) : (s.setPending es).err = s.err := rfl
@[simp] theorem State.setPending_sticky (s : State) (es : List HostEvent) : (s.setPending es).sticky = s.sticky := rfl
@[simp] theorem State.setPending_params (s : State) (es : List HostEvent) : (s.setPending es).params = s.params := rfl
@[simp] theorem State.setPending_pending (s : State) (es : List HostEvent) : (s.setPending es).pending = es := rfl
@[simp] theorem State.setPending_response (s : State) (es : List HostEvent) : (s.setPending es).response = s.response := rfl

@[simp] theorem State.loadPacket_arg (s : State) (p : List Byte) : (s.loadPacket p).arg = s.arg := rfl
@[simp] theorem State.loadPacket_result (s : State) (p : List Byte) : (s.loadPacket p).result = s.result := rfl
@[simp] theorem State.loadPacket_frame (s : State) (p : List Byte) : (s.loadPacket p).frame = Frame.ofPacket p := rfl
@[simp] theorem State.loadPacket_flen (s : State) (p : List Byte) : (s.loadPacket p).flen = BitVec.ofNat 4 p.length := rfl
@[simp] theorem State.loadPacket_acc (s : State) (p : List Byte) : (s.loadPacket p).acc = s.acc := rfl
@[simp] theorem State.loadPacket_ckne (s : State) (p : List Byte) : (s.loadPacket p).ckne = s.ckne := rfl
@[simp] theorem State.loadPacket_err (s : State) (p : List Byte) : (s.loadPacket p).err = s.err := rfl
@[simp] theorem State.loadPacket_sticky (s : State) (p : List Byte) : (s.loadPacket p).sticky = s.sticky := rfl
@[simp] theorem State.loadPacket_params (s : State) (p : List Byte) : (s.loadPacket p).params = s.params := rfl
@[simp] theorem State.loadPacket_pending (s : State) (p : List Byte) : (s.loadPacket p).pending = s.pending := rfl
@[simp] theorem State.loadPacket_response (s : State) (p : List Byte) : (s.loadPacket p).response = s.response := rfl

@[simp] theorem State.resetWith_arg (s : State) (es : List HostEvent) : (s.resetWith es).arg = 0 := rfl
@[simp] theorem State.resetWith_result (s : State) (es : List HostEvent) : (s.resetWith es).result = 0 := rfl
@[simp] theorem State.resetWith_frame (s : State) (es : List HostEvent) : (s.resetWith es).frame = Frame.zero := rfl
@[simp] theorem State.resetWith_flen (s : State) (es : List HostEvent) : (s.resetWith es).flen = 0 := rfl
@[simp] theorem State.resetWith_acc (s : State) (es : List HostEvent) : (s.resetWith es).acc = 0 := rfl
@[simp] theorem State.resetWith_ckne (s : State) (es : List HostEvent) : (s.resetWith es).ckne = false := rfl
@[simp] theorem State.resetWith_err (s : State) (es : List HostEvent) : (s.resetWith es).err = 0 := rfl
@[simp] theorem State.resetWith_sticky (s : State) (es : List HostEvent) : (s.resetWith es).sticky = false := rfl
@[simp] theorem State.resetWith_params (s : State) (es : List HostEvent) : (s.resetWith es).params = s.params := rfl
@[simp] theorem State.resetWith_pending (s : State) (es : List HostEvent) : (s.resetWith es).pending = es := rfl
@[simp] theorem State.resetWith_response (s : State) (es : List HostEvent) : (s.resetWith es).response = .idle := rfl

@[simp] theorem State.reset_arg : State.reset.arg = 0 := rfl
@[simp] theorem State.reset_result : State.reset.result = 0 := rfl
@[simp] theorem State.reset_frame : State.reset.frame = Frame.zero := rfl
@[simp] theorem State.reset_flen : State.reset.flen = 0 := rfl
@[simp] theorem State.reset_acc : State.reset.acc = 0 := rfl
@[simp] theorem State.reset_ckne : State.reset.ckne = false := rfl
@[simp] theorem State.reset_err : State.reset.err = 0 := rfl
@[simp] theorem State.reset_sticky : State.reset.sticky = false := rfl
@[simp] theorem State.reset_params : State.reset.params = defaultParams := rfl
@[simp] theorem State.reset_pending : State.reset.pending = [] := rfl
@[simp] theorem State.reset_response : State.reset.response = .idle := rfl

@[simp] theorem State.block_arg (s : State) : s.block.arg = s.arg := rfl
@[simp] theorem State.block_result (s : State) : s.block.result = s.result := rfl
@[simp] theorem State.block_frame (s : State) : s.block.frame = s.frame := rfl
@[simp] theorem State.block_flen (s : State) : s.block.flen = s.flen := rfl
@[simp] theorem State.block_acc (s : State) : s.block.acc = s.acc := rfl
@[simp] theorem State.block_ckne (s : State) : s.block.ckne = s.ckne := rfl
@[simp] theorem State.block_err (s : State) : s.block.err = s.err := rfl
@[simp] theorem State.block_sticky (s : State) : s.block.sticky = s.sticky := rfl
@[simp] theorem State.block_params (s : State) : s.block.params = s.params := rfl

/-- Two states with equal FCJM state and equal host view are
equal. -/
theorem State.ext_block {s t : State} (hb : s.block = t.block) (hp : s.pending = t.pending)
    (hr : s.response = t.response) : s = t := by
  cases s; cases t; simp_all [State.block]

end Sys2Proof.Machine
end

