-- ==== Sys2Proof/Laws/Codec.lean ====
section
/-! SUPPORT. The packets, the checksum and the frame buffer: what the shared operations of the frame codec compute. -/

namespace Sys2Proof.Machine

@[simp] theorem byteSum_nil : byteSum [] = 0 := rfl

@[simp] theorem byteSum_cons (b : Byte) (bs : List Byte) : byteSum (b :: bs) = b.toNat + byteSum bs := by
  simp [byteSum]

@[simp] theorem byteSum_append (as bs : List Byte) : byteSum (as ++ bs) = byteSum as + byteSum bs := by
  simp [byteSum]

/-- The checksum as a number (40_frame_codec.md R81). -/
theorem checksum_toNat (b : Byte) (bs : List Byte) :
    (checksum b bs).toNat = 255 - byteSum (b :: bs) % 256 := by
  simp only [checksum, BitVec.toNat_ofNat]
  omega

@[simp] theorem checksumOf_nil : checksumOf [] = none := rfl

@[simp] theorem checksumOf_cons (b : Byte) (bs : List Byte) : checksumOf (b :: bs) = some (checksum b bs) := rfl

/-- The low byte of a position is `position & 0xFF` (20_memory.md R47). -/
theorem posLow_toNat (pos : BitVec 16) : (posLow pos).toNat = pos.toNat % 256 := by
  simp [posLow]

/-- The high byte of a position is `(position >> 8) & 0xFF` (20_memory.md R47). -/
theorem posHigh_toNat (pos : BitVec 16) : (posHigh pos).toNat = pos.toNat / 256 := by
  have := pos.isLt
  simp only [posHigh, BitVec.extractLsb'_toNat, Nat.shiftRight_eq_div_pow]
  omega

/-- The frame of a nine-byte packet is the packet. -/
theorem frame_ofPacket_nine (a b c d e f g h i : Byte) :
    Frame.ofPacket [a, b, c, d, e, f, g, h, i] = ⟨a, b, c, d, e, f, g, h, i⟩ := rfl

/-- The frame of an eight-byte packet is the packet and a zero byte. -/
theorem frame_ofPacket_eight (a b c d e f g h : Byte) :
    Frame.ofPacket [a, b, c, d, e, f, g, h] = ⟨a, b, c, d, e, f, g, h, 0⟩ := rfl

/-- The "write position" packet, byte by byte (30_encoding.md R69). -/
theorem buildPacket_writePosition (sid lo hi : Byte) :
    buildPacket sid 0x03 [0x2A, lo, hi] =
      [0xFF, 0xFF, sid, 0x05, 0x03, 0x2A, lo, hi, checksum sid [0x05, 0x03, 0x2A, lo, hi]] := rfl

/-- The "read moving flag" packet, byte by byte (30_encoding.md R69). -/
theorem buildPacket_readMoving (sid : Byte) :
    buildPacket sid 0x02 [0x42, 0x01] =
      [0xFF, 0xFF, sid, 0x04, 0x02, 0x42, 0x01, checksum sid [0x04, 0x02, 0x42, 0x01]] := rfl

/-- The packet depends on FRAME and FLEN alone. -/
theorem packet_congr {s t : State} (hf : t.frame = s.frame) (hl : t.flen = s.flen) : t.packet = s.packet := by
  simp [State.packet, hf, hl]

/-- So does the payload. -/
theorem payload_congr {s t : State} (hf : t.frame = s.frame) (hl : t.flen = s.flen) : t.payload = s.payload := by
  simp [State.payload, packet_congr hf hl]

@[simp] theorem frame_zero_bytes : Frame.zero.bytes = [0, 0, 0, 0, 0, 0, 0, 0, 0] := rfl

@[simp] theorem frame_bytes_length (f : Frame) : f.bytes.length = 9 := rfl

end Sys2Proof.Machine
end

