-- ==== Sys2Proof/Laws/Encoding.lean ====
section
/-! SUPPORT. Bit fields as arithmetic, and what the decoder can answer, said once. -/

namespace Sys2Proof

/-- Concatenation with the more significant bits first (00_scope.md R10), as a number. -/
theorem append_toNat {m n : Nat} (x : BitVec m) (y : BitVec n) : (x ++ y).toNat = x.toNat * 2 ^ n + y.toNat := by
  rw [BitVec.toNat_append, ← Nat.shiftLeft_add_eq_or_of_lt y.isLt, Nat.shiftLeft_eq]

/-- A field of a word (00_scope.md R10), as a number. -/
theorem field_toNat (c : Word) (lo n : Nat) : (c.extractLsb' lo n).toNat = c.toNat / 2 ^ lo % 2 ^ n := by
  simp [Nat.shiftRight_eq_div_pow]

/-- A field holds the value its bits spell. -/
theorem field_eq {c : Word} {lo n : Nat} {v : BitVec n} (h : c.toNat / 2 ^ lo % 2 ^ n = v.toNat) :
    c.extractLsb' lo n = v :=
  BitVec.eq_of_toNat_eq (by rw [field_toNat, h])

@[simp] theorem bitOfJoint_jointOfBit (b : BitVec 1) : bitOfJoint (jointOfBit b) = b := by
  revert b; decide

@[simp] theorem jointOfBit_bitOfJoint (j : Joint) : jointOfBit (bitOfJoint j) = j := by
  cases j <;> rfl

/-- When a word is a command, and which (30_encoding.md R67). -/
theorem decode_ok_cases {c : Word} {i : Instr} (h : decode c = .ok i) :
    (opcodeField c = 0x1#4 ∧ c.extractLsb' 24 4 = 0 ∧ i = .encMove (sidField c) (posField c)) ∨
    (opcodeField c = 0x2#4 ∧ c.extractLsb' 24 4 = 0 ∧ c.extractLsb' 0 16 = 0 ∧ i = .encReadMoving (sidField c)) ∨
    (opcodeField c = 0x3#4 ∧ c.extractLsb' 0 28 = 0 ∧ i = .ckInit) ∨
    (opcodeField c = 0x4#4 ∧ c.extractLsb' 8 20 = 0 ∧ i = .ckByte (byteField c)) ∨
    (opcodeField c = 0x5#4 ∧ c.extractLsb' 0 28 = 0 ∧ i = .ckFinal) ∨
    (opcodeField c = 0x6#4 ∧ c.extractLsb' 25 3 = 0 ∧ c.extractLsb' 0 24 = 0 ∧ i = .mapA2p (jointField c)) ∨
    (opcodeField c = 0x7#4 ∧ c.extractLsb' 25 3 = 0 ∧ c.extractLsb' 12 12 = 0 ∧
      i = .mapP2a (jointField c) (pField c)) := by
  unfold decode at h
  split_ifs at h <;> simp_all

/-- When a word is illegal (30_encoding.md R65, R66). -/
theorem decode_error_cases {c : Word} {x : DecodeError} (h : decode c = .error x) :
    (x = .reservedOpcode (opcodeField c) ∧ opcodeField c ∉ [0x1#4, 0x2#4, 0x3#4, 0x4#4, 0x5#4, 0x6#4, 0x7#4]) ∨
    (x = .mustBeZero (opcodeField c) ∧ opcodeField c ∈ [0x1#4, 0x2#4, 0x3#4, 0x4#4, 0x5#4, 0x6#4, 0x7#4]) := by
  unfold decode at h
  split_ifs at h <;> simp_all

end Sys2Proof
end

