-- ==== Sys2Proof/Laws/Mapper.lean ====
section
/-! SUPPORT. The arithmetic of the joint mapper: the clamp, the accepted parameters, and when roundings are ordered. -/

namespace Sys2Proof.Machine

theorem le_clamp {p lo hi : Int} (h : lo ≤ hi) : lo ≤ clamp p lo hi := by
  unfold clamp; split_ifs <;> omega

theorem clamp_le {p lo hi : Int} (h : lo ≤ hi) : clamp p lo hi ≤ hi := by
  unfold clamp; split_ifs <;> omega

theorem clamp_of_mem {p lo hi : Int} (h₁ : lo ≤ p) (h₂ : p ≤ hi) : clamp p lo hi = p := by
  unfold clamp; split_ifs <;> omega

theorem clamp_mono {p q lo hi : Int} (h : lo ≤ hi) (hpq : p ≤ q) : clamp p lo hi ≤ clamp q lo hi := by
  unfold clamp; split_ifs <;> omega

/-- The clauses of the check of one entry (10_state.md R34). -/
theorem entryWellFormed_iff (p : Params) (e : CalEntry) :
    entryWellFormed p e = true ↔
      1 ≤ e.grn ∧ 1 ≤ e.grd ∧ 1 ≤ e.range ∧ e.min ≤ e.max ∧ e.max ≤ 4095 ∧ e.center ≤ 4095 ∧
      p2aFits p e 0 = true ∧ p2aFits p e 4095 = true := by
  simp [entryWellFormed, and_assoc]

/-- The clauses of the check of the parameters (00_scope.md R9). -/
theorem wellFormed_iff (p : Params) :
    p.wellFormed = true ↔
      p.angleFracBits ≤ 31 ∧ entryWellFormed p p.cal.entry0 = true ∧ entryWellFormed p p.cal.entry1 = true := by
  simp [Params.wellFormed, paramsWellFormed, and_assoc]

/-- Under accepted parameters the entry a joint selects is well-formed. -/
theorem entryWellFormed_of_wellFormed {p : Params} (h : p.wellFormed = true) (j : Joint) :
    entryWellFormed p (calEntry p.cal j) = true := by
  obtain ⟨-, h0, h1⟩ := (wellFormed_iff p).1 h
  cases j
  · exact h0
  · exact h1

/-- The divisor of MAP_A2P is positive (41_joint_mapper.md R104). -/
theorem a2pDenominator_pos {frac : Nat} {e : CalEntry} (h : 1 ≤ e.grd) : 0 < a2pDenominator frac e := by
  have : 0 < e.grd * 360 * 2 ^ frac := by positivity
  unfold a2pDenominator
  exact_mod_cast this

/-- The divisor of MAP_P2A is positive (41_joint_mapper.md R105). -/
theorem p2aDenominator_pos {e : CalEntry} (h₁ : 1 ≤ e.grn) (h₂ : 1 ≤ e.range) : 0 < p2aDenominator e := by
  have : 0 < e.grn * e.range := by positivity
  unfold p2aDenominator
  exact_mod_cast this

/-- `RoundQ` is monotone in its numerator. -/
theorem roundQ_mono (mode : RoundMode) {m n d : Int} (hd : 0 < d) (h : m ≤ n) :
    roundQ mode m d ≤ roundQ mode n d := by
  cases mode with
  | halfAway =>
    simp only [roundQ, roundHalfAway]
    have h2 : 0 < 2 * d := by omega
    split_ifs with h₁ h₂
    · exact Int.ediv_le_ediv h2 (by omega)
    · omega
    · have h₃ : 0 ≤ (-2 * m + d) / (2 * d) := Int.ediv_nonneg (by omega) (by omega)
      have h₄ : 0 ≤ (2 * n + d) / (2 * d) := Int.ediv_nonneg (by omega) (by omega)
      omega
    · have := Int.ediv_le_ediv h2 (show -2 * n + d ≤ -2 * m + d by omega)
      omega
  | halfEven =>
    simp only [roundQ, roundHalfEven]
    have hq := Int.ediv_le_ediv hd h
    have hm := Int.mul_ediv_add_emod m d
    have hn := Int.mul_ediv_add_emod n d
    rcases hq.lt_or_eq with hlt | heq
    · split_ifs <;> omega
    · rw [← heq]
      split_ifs <;> omega

end Sys2Proof.Machine
end

