-- ==== Sys2Proof/Laws/PerInstr.lean ====
section
/-! SUPPORT. Statements for all instructions, one lemma per constructor of Instr. -/

namespace Sys2Proof

/-- The column "OP" of the opcode map (30_encoding.md R64). -/
def opcodeOf : Instr → BitVec 4
  | .encMove _ _ => 0x1
  | .encReadMoving _ => 0x2
  | .ckInit => 0x3
  | .ckByte _ => 0x4
  | .ckFinal => 0x5
  | .mapA2p _ => 0x6
  | .mapP2a _ _ => 0x7

/-- The word of a command carries the opcode of its row in `C[31:28]` (30_encoding.md R61, R64). -/
def Laws.OpcodeBits.Statement (i : Instr) : Prop := opcodeField (encode i) = opcodeOf i

theorem Laws.OpcodeBits.encMove (sid : BitVec 8) (pos : BitVec 16) :
    Laws.OpcodeBits.Statement (.encMove sid pos) :=
  field_eq (by
    have := sid.isLt; have := pos.isLt
    simp only [encode, append_toNat, opcodeOf]; simp; omega)

theorem Laws.OpcodeBits.encReadMoving (sid : BitVec 8) : Laws.OpcodeBits.Statement (.encReadMoving sid) :=
  field_eq (by
    have := sid.isLt
    simp only [encode, append_toNat, opcodeOf]; simp; omega)

theorem Laws.OpcodeBits.ckInit : Laws.OpcodeBits.Statement .ckInit := rfl

theorem Laws.OpcodeBits.ckByte (byte : BitVec 8) : Laws.OpcodeBits.Statement (.ckByte byte) :=
  field_eq (by
    have := byte.isLt
    simp only [encode, append_toNat, opcodeOf]; simp; omega)

theorem Laws.OpcodeBits.ckFinal : Laws.OpcodeBits.Statement .ckFinal := rfl

theorem Laws.OpcodeBits.mapA2p (j : Joint) : Laws.OpcodeBits.Statement (.mapA2p j) := by
  cases j <;> rfl

theorem Laws.OpcodeBits.mapP2a (j : Joint) (p : BitVec 12) : Laws.OpcodeBits.Statement (.mapP2a j p) :=
  field_eq (by
    have := p.isLt; have := (bitOfJoint j).isLt
    simp only [encode, append_toNat, opcodeOf]; simp; omega)

end Sys2Proof
end

