-- ==== Sys2Proof/Laws/Step.lean ====
section
/-! SUPPORT. What each shared operation, a host access, an event and a step can do, said once: later proofs cite these
instead of unfolding the definitions. -/

namespace Sys2Proof.Machine

theorem whenWellFormed_next {s t u : State} (h : whenWellFormed s t = .next u) :
    s.params.wellFormed = true ∧ u = t := by
  unfold whenWellFormed at h
  split at h
  · exact ⟨‹_›, by cases h; rfl⟩
  · cases h

theorem whenWellFormed_of_wellFormed {s : State} (t : State) (h : s.params.wellFormed = true) :
    whenWellFormed s t = .next t := by
  simp [whenWellFormed, h]

theorem busError_next {s t : State} {off : Nat} (h : busError off s = .next t) : t = s.respond (.busError off) := by
  cases h; rfl

/-- A command leaves ARG, the parameters and the model's view of the host alone. -/
theorem exec_keeps {i : Instr} {s t : State} (h : exec i s = .next t) :
    t.arg = s.arg ∧ t.params = s.params ∧ t.pending = s.pending ∧ t.response = s.response := by
  cases i with
  | encMove sid pos => cases h; simp
  | encReadMoving sid => cases h; simp
  | ckInit => cases h; simp
  | ckByte b => cases h; simp
  | ckFinal =>
    simp only [exec, execCkFinal] at h
    split at h <;> cases h <;> simp
  | mapA2p j =>
    obtain ⟨-, rfl⟩ := whenWellFormed_next h
    simp
  | mapP2a j p =>
    obtain ⟨-, rfl⟩ := whenWellFormed_next h
    simp

/-- A CMD write performs the command its word decodes to, or raises ILLEGAL. -/
theorem execute_cases {c : Word} {s t : State} (h : execute c s = .next t) :
    (∃ i, decode c = .ok i ∧ exec i s = .next t) ∨
    (∃ x, decode c = .error x ∧ t = s.raise errIllegal) := by
  unfold execute at h
  split at h
  · exact .inl ⟨_, ‹_›, h⟩
  · exact .inr ⟨_, ‹_›, by cases h; rfl⟩

/-- An access of a size or offset R42 does not accept is a bus error. -/
theorem hostAccess_misaligned {off n : Nat} {kind : AccessKind} {s : State} (h : accessAligned off n = false) :
    hostAccess off n kind s = busError off s := by
  simp [hostAccess, h]

/-- What an event can do: reset, a bus error, a read, a write of ARG, or a CMD write. -/
theorem performEvent_cases {e : HostEvent} {rest : List HostEvent} {s t : State}
    (h : performEvent e rest s = .next t) :
    (e = .reset ∧ t = s.resetWith rest) ∨
    (cmdWord e = none ∧ (∃ off n kind, e = .access off n kind ∧ (∀ v, e ≠ memWrite .arg v) ∧
      t = (s.setPending rest).respond (.busError off))) ∨
    (cmdWord e = none ∧ (∃ off v, e = .access off 4 .read ∧ (regAt off).bind (fun r => readReg r s) = some v ∧
      t = (s.setPending rest).respond (.data v))) ∨
    (cmdWord e = none ∧ (∃ v, e = memWrite .arg v ∧ t = ((s.setPending rest).setArg v).respond .written)) ∨
    (∃ c, e = memWrite .cmd c ∧ cmdWord e = some c ∧
      execute c ((s.setPending rest).respond .written) = .next t) := by
  cases e with
  | reset => exact .inl ⟨rfl, by cases h; rfl⟩
  | access off n kind =>
    right
    by_cases ha : accessAligned off n = true
    · have hn : n = 4 := by simp [accessAligned] at ha; exact ha.1.1
      subst hn
      cases kind with
      | read =>
        simp only [performEvent, hostAccess, ha, if_true, readAccess] at h
        split at h
        · rename_i v hv
          refine .inr (.inl ⟨rfl, off, v, rfl, ?_, by cases h; rfl⟩)
          rw [← hv]; rcases hr : regAt off with _ | r
          · rfl
          · cases r <;> rfl
        · exact .inl ⟨rfl, off, 4, .read, rfl, by simp [memWrite], busError_next h⟩
      | write v =>
        simp only [performEvent, hostAccess, ha, if_true, writeAccess] at h
        by_cases h0 : off = 0
        · subst h0
          exact .inr (.inr (.inr ⟨v, rfl, rfl, h⟩))
        · by_cases h4 : off = 4
          · subst h4
            exact .inr (.inr (.inl ⟨rfl, v, rfl, by cases h; rfl⟩))
          · refine .inl ⟨by simp [cmdWord, h0], off, 4, .write v, rfl, ?_, ?_⟩
            · intro w hw
              simp [memWrite, regOffset] at hw
              exact h4 hw.1
            · have : ∀ r, regAt off = some r → r ≠ .cmd ∧ r ≠ .arg := by
                intro r hr
                unfold regAt at hr
                simp only [h0, h4, if_false] at hr
                split_ifs at hr <;> cases hr <;> simp
              rcases hr : regAt off with _ | r
              · rw [hr] at h; exact busError_next h
              · have := this r hr
                rw [hr] at h
                cases r <;> first | exact busError_next h | simp at this
    · have ha' : accessAligned off n = false := by simpa using ha
      rw [performEvent, hostAccess_misaligned ha'] at h
      refine .inl ⟨?_, off, n, kind, rfl, ?_, busError_next h⟩
      · cases kind with
        | read => rfl
        | write v =>
          simp only [cmdWord]
          rw [if_neg]
          rintro ⟨rfl, rfl⟩
          exact ha (by decide)
      · intro v hv
        simp only [memWrite, HostEvent.access.injEq] at hv
        obtain ⟨rfl, rfl, -⟩ := hv
        exact ha (by decide)

/-- A step that answers a next state was ready, and did nothing or performed the oldest event. -/
theorem step_cases {s t : State} (h : step s = .next t) :
    Ready s ∧ ((s.pending = [] ∧ t = s) ∨ ∃ e rest, s.pending = e :: rest ∧ performEvent e rest s = .next t) := by
  unfold step performNext at h
  split at h
  · split at h
    · refine ⟨⟨‹_›, ‹_›⟩, ?_⟩
      split at h
      · exact .inl ⟨‹_›, by cases h; rfl⟩
      · exact .inr ⟨_, _, ‹_›, h⟩
    · cases h
  · cases h

theorem step_of_pending {s : State} {e : HostEvent} {rest : List HostEvent} (hr : Ready s)
    (hp : s.pending = e :: rest) : step s = performEvent e rest s := by
  simp [step, performNext, hr.1, hr.2, hp]

theorem step_of_idle {s : State} (hr : Ready s) (hp : s.pending = []) : step s = .next s := by
  simp [step, performNext, hr.1, hr.2, hp]

theorem cmdWord_cmdWrite (i : Instr) : cmdWord (cmdWrite i) = some (encode i) := rfl

theorem cmdWord_memWrite_cmd (c : Word) : cmdWord (memWrite .cmd c) = some c := rfl

theorem cmdWord_memWrite_arg (v : Word) : cmdWord (memWrite .arg v) = none := rfl

theorem cmdWord_memRead (r : WindowReg) : cmdWord (memRead r) = none := rfl

/-- The command of a CMD write is what its word decodes to. -/
theorem eventCommand_eq_some {e : HostEvent} {i : Instr} :
    eventCommand e = some i ↔ ∃ c, cmdWord e = some c ∧ decode c = .ok i := by
  unfold eventCommand
  cases cmdWord e with
  | none => simp
  | some c => cases h : decode c <;> simp [h]

theorem eventCommand_of_cmdWord_none {e : HostEvent} (h : cmdWord e = none) : eventCommand e = none := by
  simp [eventCommand, h]

@[simp] theorem runSteps_zero (s : State) : runSteps 0 s = .next s := rfl

/-- A run of `k + 1` steps is a step and a run of `k`. -/
theorem runSteps_succ_next {k : Nat} {s t : State} (h : step s = .next t) : runSteps (k + 1) s = runSteps k t := by
  have hc : Sys2Proof.core.step s = .next t := h
  simp only [runSteps, Host.Core.run, hc]
  rfl

/-- A run of `k + 1` steps that answers a next state took a step first. -/
theorem runSteps_succ_cases {k : Nat} {s u : State} (h : runSteps (k + 1) s = .next u) :
    ∃ t, step s = .next t ∧ runSteps k t = .next u := by
  cases hs : step s with
  | next t => exact ⟨t, rfl, by rw [runSteps_succ_next hs] at h; exact h⟩
  | fault r =>
    have hc : Sys2Proof.core.step s = .fault r := hs
    simp only [runSteps, Host.Core.run, hc] at h
    cases h
  | refused r =>
    have hc : Sys2Proof.core.step s = .refused r := hs
    simp only [runSteps, Host.Core.run, hc] at h
    cases h

/-- A run composes from two. -/
theorem runSteps_add {m n : Nat} {s t u : State} (hm : runSteps m s = .next t) (hn : runSteps n t = .next u) :
    runSteps (m + n) s = .next u := by
  induction m generalizing s with
  | zero => cases hm; simpa using hn
  | succ m ih =>
    obtain ⟨r, hs, hr⟩ := runSteps_succ_cases hm
    rw [Nat.add_right_comm, runSteps_succ_next hs]
    exact ih hr

end Sys2Proof.Machine
end

