-- ==== Sys2Proof/Tests/Slice0.lean ====
section
/-! SUPPORT. Tests with results taken from the spec (95_test_vectors.md) or written out from its encodings, the smoke
tests of the well-formedness checks, and a witness for the hypotheses of every obligation that has some. -/

namespace Sys2Proof.Tests

open Sys2Proof.Machine

/-- The next state of an outcome. -/
def after (o : Host.Outcome State Fault Refusal) : Option State :=
  match o with
  | .next s => some s
  | .fault _ => none
  | .refused _ => none

/-- The reset state with host events pending. -/
def host (es : List HostEvent) : State := { State.reset with pending := es }

/-- The reset state with an angle in ARG. -/
def withArg (w : Word) : State := { State.reset with arg := w }

/-- One CMD write from the reset state. -/
def cmd (w : Word) : Option State := after (step (State.reset.withFetchWord 32 w.toNat))

/-! ## Well-formedness: each check refuses an ill-formed term -/

theorem test_sid_out_of_range : (AsmCommand.encMove 256 0).wellFormed = false := by decide
theorem test_pos_out_of_range : (AsmCommand.encMove 0 65536).wellFormed = false := by decide
theorem test_query_sid_out_of_range : (AsmCommand.encReadMoving 256).wellFormed = false := by decide
theorem test_byte_out_of_range : (AsmCommand.ckByte 256).wellFormed = false := by decide
theorem test_joint_out_of_range : (AsmCommand.mapA2p 2).wellFormed = false := by decide
theorem test_inverse_joint_out_of_range : (AsmCommand.mapP2a 2 0).wellFormed = false := by decide
theorem test_p_out_of_range : (AsmCommand.mapP2a 1 4096).wellFormed = false := by decide
theorem test_edges_in_range : (AsmCommand.encMove 255 65535).wellFormed && (AsmCommand.mapP2a 1 4095).wellFormed &&
    (AsmCommand.ckByte 255).wellFormed && (AsmCommand.mapA2p 1).wellFormed = true := by decide

/-- This hardware's parameters with another entry J = 0. -/
def withEntry (e : CalEntry) : Params := { defaultParams with cal := ⟨e, ulnarEntry⟩ }

theorem test_default_params : defaultParams.wellFormed = true := by decide
theorem test_frac_bits_too_many : Params.wellFormed { defaultParams with angleFracBits := 32 } = false := by decide
theorem test_grn_zero : (withEntry { flexionEntry with grn := 0 }).wellFormed = false := by decide
theorem test_grd_zero : (withEntry { flexionEntry with grd := 0 }).wellFormed = false := by decide
theorem test_range_zero : (withEntry { flexionEntry with range := 0 }).wellFormed = false := by decide
theorem test_min_above_max : (withEntry { flexionEntry with min := 3001, max := 3000 }).wellFormed = false := by decide
theorem test_max_above_4095 : (withEntry { flexionEntry with max := 4096 }).wellFormed = false := by decide
theorem test_center_above_4095 : (withEntry { flexionEntry with center := 4096 }).wellFormed = false := by decide
/-- A coarse LUT whose angle at position 0 is below -2^31 steps. -/
theorem test_p2a_too_small :
    (withEntry { flexionEntry with grn := 1, range := 1, center := 4095 }).wellFormed = false := by decide
/-- A coarse LUT whose angle at position 4095 is above 2^31 - 1 steps. -/
theorem test_p2a_too_large :
    (withEntry { flexionEntry with grn := 1, range := 1, center := 0 }).wellFormed = false := by decide
theorem test_second_entry_is_checked :
    Params.wellFormed { defaultParams with cal := ⟨flexionEntry, { ulnarEntry with grn := 0 }⟩ } = false := by decide

/-! ## Decoding: words written out bit by bit from the formats of 30_encoding.md R62 -/

theorem test_decode_enc_move :
    decode 0b0001_0000_00010010_0011010001010110 = .ok (.encMove 0x12 0x3456) := by rfl
theorem test_decode_enc_read_moving :
    decode 0b0010_0000_11111110_0000000000000000 = .ok (.encReadMoving 0xFE) := by rfl
theorem test_decode_ck_init : decode 0b0011_0000_00000000_0000000000000000 = .ok .ckInit := by rfl
theorem test_decode_ck_byte : decode 0b0100_0000_00000000_00000000_10100101 = .ok (.ckByte 0xA5) := by rfl
theorem test_decode_ck_final : decode 0b0101_0000_00000000_0000000000000000 = .ok .ckFinal := by rfl
theorem test_decode_map_a2p_0 : decode 0b0110_0000_00000000_0000000000000000 = .ok (.mapA2p .flexion) := by rfl
theorem test_decode_map_a2p_1 : decode 0b0110_0001_00000000_0000000000000000 = .ok (.mapA2p .ulnar) := by rfl
theorem test_decode_map_p2a : decode 0b0111_0001_00000000_0000_100001100110 = .ok (.mapP2a .ulnar 2150) := by rfl

/-- 95_test_vectors.md V-D1 to V-D17: every illegal word of the spec is rejected, by name. -/
theorem test_illegal_words :
    [0x11000000#32, 0x20040001, 0x21040000, 0x30000001, 0x38000000, 0x40000100, 0x48000000, 0x50000001, 0x62000000,
      0x60000001, 0x63000000, 0x70001000, 0x72000000].all
        (fun c => decode c matches .error (.mustBeZero _)) = true ∧
    [0x00000000#32, 0x80000000, 0xF0000000, 0xFFFFFFFF].all
        (fun c => decode c matches .error (.reservedOpcode _)) = true := by decide

theorem test_table_word : decodeTableWord 32 0x71000FFF = some (.mapP2a .ulnar 4095) := by decide

/-! ## The spec's vectors -/

/-- V-M14: low byte first. -/
theorem test_vm14 : (cmd 0x10123456).map State.packet = some [0xFF, 0xFF, 0x12, 0x05, 0x03, 0x2A, 0x56, 0x34, 0x31] := by
  decide
/-- V-M3 and W1: the host words of all-ones operands and STATUS. -/
theorem test_vm3 : (cmd 0x10FFFFFF).map (fun s => (s.frame0, s.frame1, s.frame2, s.status)) =
    some (0x05FFFFFF, 0xFFFF2A03, 0xD0, 0x90) := by decide
/-- V-Q9: the sum wraps. -/
theorem test_vq9 : (cmd 0x20B70000).map (fun s => (s.frame0, s.frame1, s.frame2, s.status)) =
    some (0x04B7FFFF, 0xFF014202, 0x00, 0x80) := by decide
/-- V-Q10: FRAME[8] is cleared after a nine-byte packet. -/
theorem test_vq10 : (after (runSteps 2 (host [memWrite .cmd 0x10010800, memWrite .cmd 0x20010000]))).map State.frame2 =
    some 0 := by decide
/-- R85's example: CK_INIT after a byte. -/
theorem test_ck_init : (after (exec .ckInit { State.reset with acc := 0x12, ckne := true })).map
    (fun s => (s.acc, s.ckne)) = some (0, false) := by decide
/-- R86's example: the sum wraps. -/
theorem test_ck_byte_wraps : (after (exec (.ckByte 1) { State.reset with acc := 0xFF })).map
    (fun s => (s.acc, s.ckne)) = some (0, true) := by decide
/-- V-C11: EMPTY after reset. -/
theorem test_vc11 : (cmd 0x50000000).map (fun s => (s.status, s.result)) = some (0x102, 0) := by decide
/-- V-C13: a byte after reset, then CK_FINAL. -/
theorem test_vc13 : (after (runSteps 2 (host [memWrite .cmd 0x40000012, memWrite .cmd 0x50000000]))).map
    (fun s => (s.result, s.acc, s.status)) = some (0xED, 0x12, 0x08) := by decide
/-- V-C4: no end-around carry. -/
theorem test_vc4 : (after (runSteps 4 (host (cksumEvents [0xFF, 0x01])))).map State.result = some 0xFF := by decide
/-- V-A3 and V-A4: an exact half, with positive and negative angle. -/
theorem test_va3_va4 : ((after (exec (.mapA2p .flexion) (withArg 0x003C0000))).map State.result,
    (after (exec (.mapA2p .flexion) (withArg 0xFFEC0000))).map State.result) = (some 0xCCD, some 0x667) := by decide
/-- V-A17 in `HALF_EVEN`, and V-A26. -/
theorem test_va17_even : ((after (exec (.mapA2p .ulnar)
      { withArg 0xFFDC0000 with params := { defaultParams with roundMode := .halfEven } })).map State.result,
    (after (exec (.mapA2p .ulnar) (withArg 0x80000000))).map State.result) = (some 0x622, some 0x4B0) := by decide
/-- V-R3 and V-R13: negative results. -/
theorem test_vr3_vr13 : ((cmd 0x700007FF).map State.result, (cmd 0x71000000).map State.result) =
    (some 0xFFFFF37F, some 0xFF7A6FC4) := by decide
/-- V-R14: above MAX, no clamp. -/
theorem test_vr14 : (cmd 0x71000FFF).map State.result = some 0x0078D40B := by decide
/-- V-D1, V-D24 and V-S2: ILLEGAL, then a success, then reset. -/
theorem test_sticky_until_reset :
    ((after (runSteps 1 (host [memWrite .cmd 0]))).map State.status,
     (after (runSteps 2 (host [memWrite .cmd 0, memWrite .cmd 0x30000000]))).map State.status,
     (after (runSteps 2 (host [memWrite .cmd 0, .reset]))).map State.status) = (some 0x101, some 0x100, some 0) := by
  decide
/-- V-B1 to V-B11: bus errors, each with its own cause, and no FCJM state changed. -/
theorem test_bus_errors :
    [HostEvent.access 0 4 .read, .access 8 4 (.write 5), .access 0xC 4 (.write 0x12345678), .access 0x10 4 (.write 1),
      .access 0x1C 4 .read, .access 0x1C 4 (.write 1), .access 0x20 4 .read, .access 2 4 .read, .access 0x10 1 .read,
      .access 4 2 (.write 0xBEEF), .access 0 1 (.write 0x10)].all (fun e =>
        match after (step (host [e])) with
        | some t => decide (t.block = State.reset.block) && (t.response matches .busError _)
        | none => false) = true := by decide
/-- V-B12: an ARG write is read back. -/
theorem test_vb12 : (after (runSteps 2 (host [memWrite .arg 0x12345678, memRead .arg]))).map
    (fun s => (s.response, s.status)) = some (.data 0x12345678, 0) := by decide
/-- W1's bytes through the window, `FRAME[2]` at offset 0x12. -/
theorem test_window_byte : (cmd 0x10040866).bind (fun s => windowByte s 0x12) = some 0x04 := by decide
/-- 30_encoding.md R70: the text of a line, with a comment and a grouped number. -/
theorem test_parse_line : (parseLine "ENC_MOVE 1, 2048 ; W1".toList).toOption =
    some (some (.command (.encMove 1 2048))) := by decide
theorem test_parse_hex : (parseLine "W CMD, 0x1001_0800".toList).toOption = some (some (.write .cmd 0x10010800)) := by
  decide
/-- 30_encoding.md R71: LDARG and CKSUM. -/
theorem test_assemble_pseudo : (assembleLine (.ldarg 0x3C0000)).toOption = some [memWrite .arg 0x3C0000] ∧
    (assembleLine (.cksum 0xFF [1])).toOption =
      some [memWrite .cmd 0x30000000, memWrite .cmd 0x400000FF, memWrite .cmd 0x40000001, memWrite .cmd 0x50000000] := by
  decide

/-! ## Witnesses: the hypotheses of each obligation are met together -/

/-- A state no command from reset gives at once: a packet, a sum, a result and an error, with events pending. -/
def busy (es : List HostEvent) : State where
  arg := 0x003C0000
  result := 0x55
  frame := ⟨0xFF, 0xFF, 0x01, 0x05, 0x03, 0x2A, 0x00, 0x08, 0xC4⟩
  flen := 9
  acc := 0x12
  ckne := true
  err := 2
  sticky := true
  params := { defaultParams with roundMode := .halfEven }
  pending := es
  response := .busError 0x1C

theorem witness_DecoderFollowsTheOpcodeMap : (0x10010800 : Word) &&& 0xFF000000 = 0x10000000 ∧
    (0x0FFFFFFF : Word) &&& 0xF0000000 = 0x00000000 ∧ (0xFFFFFFFF : Word) &&& 0x80000000 = 0x80000000 := by decide

theorem witness_EncodeReadsBackDecode : decode 0x10010800 = .ok (.encMove 1 2048) := by rfl

theorem witness_MustBeZeroBitsAreIllegal_low : opcodeRows[3] ∈ opcodeRows ∧
    opcodeField 0x40000100 = opcodeField opcodeRows[3].pattern ∧ 8 < 28 ∧ opcodeRows[3].mask.getLsbD 8 = true ∧
    opcodeRows[3].pattern.getLsbD 8 = false ∧ (0x40000100 : Word).getLsbD 8 = true := by decide

theorem witness_MustBeZeroBitsAreIllegal_high : opcodeRows[6] ∈ opcodeRows ∧
    opcodeField 0x78000000 = opcodeField opcodeRows[6].pattern ∧ 27 < 28 ∧ opcodeRows[6].mask.getLsbD 27 = true ∧
    opcodeRows[6].pattern.getLsbD 27 = false ∧ (0x78000000 : Word).getLsbD 27 = true := by decide

theorem witness_AssemblerWritesTheTableWord : (AsmCommand.encMove 255 65535).wellFormed = true ∧
    (AsmCommand.encMove 256 65535).wellFormed = false := by decide

theorem witness_StepRunsTheDecodedCommand : Ready (busy [memWrite .cmd 0x40000001]) ∧
    (busy [memWrite .cmd 0x40000001]).pending = memWrite .cmd 0x40000001 :: [] ∧
    decode 0x40000001 = .ok (.ckByte 1) := ⟨by decide, rfl, rfl⟩

theorem witness_IllegalWordRaisesIllegal : Ready (busy [memWrite .cmd 0]) ∧
    (busy [memWrite .cmd 0]).pending = memWrite .cmd 0 :: [] ∧ (∀ r ∈ opcodeRows, r.matches 0 = false) := by decide

/-- One witness for each register of the map, read and written, and the reserved word. -/
theorem witness_LegalAccessesDoWhatTheMapSays :
    ∀ off ∈ [0x00, 0x04, 0x08, 0x0C, 0x10, 0x14, 0x18, 0x1C], ∀ kind ∈ [AccessKind.read, .write 0x30000000],
      Ready (busy [.access off 4 kind]) ∧ off % 4 = 0 ∧ off ≤ 0x1F ∧
      (busy [.access off 4 kind]).pending = .access off 4 kind :: [] := by decide

/-- One witness for each cause: a size, a misaligned offset, the first offset past the window, the reserved word, a read
of CMD, and a write of each read-only register. -/
theorem witness_BusErrorsChangeNothing :
    (∀ e ∈ [(0x00, 3, AccessKind.read), (0x01, 4, .read), (0x20, 4, .read), (0x1C, 4, .read), (0x00, 4, .read),
        (0x08, 4, .write 5), (0x0C, 4, .write 5), (0x10, 4, .write 5), (0x14, 4, .write 5), (0x18, 4, .write 5)],
      Ready (busy [.access e.1 e.2.1 e.2.2]) ∧
      (e.2.1 ≠ 4 ∨ e.1 % 4 ≠ 0 ∨ 0x1F < e.1 ∨ e.1 = 0x1C ∨ (e.1 = 0x00 ∧ e.2.2 = .read) ∨
        (e.2.2 = .write 5 ∧ (e.1 = 0x08 ∨ e.1 = 0x0C ∨ e.1 = 0x10 ∨ e.1 = 0x14 ∨ e.1 = 0x18)))) := by decide

theorem witness_ReadsHaveNoSideEffects : Ready (busy [memRead .status, memRead .status]) ∧
    (busy [memRead .status, memRead .status]).pending = .access 8 4 .read :: [memRead .status] ∧
    WindowReg.status ≠ .cmd ∧
    (busy [memRead .status, memRead .status]).pending = memRead .status :: memRead .status :: [] := by decide

theorem witness_ArgIsWrittenByTheHostOnly :
    Ready (busy (memWrite .arg 7 :: [memWrite .cmd 0x60000000, .access 4 2 (.write 9)] ++ memRead .arg :: [])) ∧
    (∀ e ∈ [memWrite .cmd 0x60000000, .access 4 2 (.write 9)], e ≠ .reset ∧ ∀ w, e ≠ memWrite .arg w) := by
  refine ⟨by decide, ?_⟩
  intro e he
  simp only [List.mem_cons, List.not_mem_nil, or_false] at he
  rcases he with rfl | rfl <;> simp [memWrite, regOffset]

theorem witness_FrameWordsAreLittleEndian : (0 < 4) ∧ (3 < 4) := by decide

theorem witness_WindowBytesAreLittleEndian : (0 < 4) ∧ (3 < 4) := by decide

theorem witness_EachStepTakesOneHostEvent :
    (after (step (busy [.access 0x1C 4 .read, .reset]))).map State.pending = some [.reset] := by decide

theorem witness_IdleStepChangesNothing : Ready (busy []) ∧ (busy []).pending = [] := by decide

theorem witness_ResetWritesEveryRegister : Ready (busy [.reset, memRead .arg]) ∧
    (busy [.reset, memRead .arg]).pending = .reset :: [memRead .arg] := by decide

theorem witness_CkFinalDeliversTheComplement : (busy []).ckne = true ∧ State.reset.ckne = false := by decide

theorem witness_ChecksumIsTheComplementOfTheSum : ((1 : Byte) :: [0xFF, 2]).Perm (0xFF :: [2, 1]) := by decide

theorem witness_StreamingGivesTheChecksum : Ready (busy (cksumEvents (0xFF :: [1]) ++ [.reset])) ∧
    (busy (cksumEvents (0xFF :: [1]) ++ [.reset])).pending = cksumEvents (0xFF :: [1]) ++ [.reset] := by decide

theorem witness_BuiltPacketsCheckThemselves : Ready (busy []) ∧ buildsPacket (.encMove 1 2048) = true ∧
    buildsPacket (.encReadMoving 0xB6) = true := by decide

theorem witness_AccIsHiddenButForCkFinal :
    (∀ e ∈ (busy [memWrite .cmd 0x40000001, memRead .status]).pending, eventCommand e ≠ some .ckFinal) ∧
    (after (runSteps 2 (busy [memWrite .cmd 0x40000001, memRead .status]))).isSome = true := by decide

theorem witness_RoundQRoundsToNearest : (0 : Int) < 2 ∧ |roundingError 3276 6553 2| = 2 := by decide

theorem witness_MapA2pGivesTheClampedPosition : (busy []).params.wellFormed = true := by decide

theorem witness_MapP2aGivesTheAngle : State.reset.params.wellFormed = true := by decide

theorem witness_MapperFractionsAreTheFormulas : 1 ≤ ulnarEntry.grn ∧ 1 ≤ ulnarEntry.grd ∧ 1 ≤ ulnarEntry.range := by
  decide

theorem witness_MapA2pIsMonotoneWithinTheClamp : (withArg 0x80000000).params.wellFormed = true ∧
    sext32 (withArg 0x80000000).arg ≤ sext32 0x7FFFFFFF := by decide

theorem witness_MapA2pSaturatesExactlyAtTheThresholds :
    ∀ w ∈ [0xFFE54294#32, 0xFFE54295, 0x0063F37F, 0x0063F380, 0xFFC503C1, 0xFFC503C2, 0x003AFC3E, 0x003AFC3F],
      (withArg w).params.cal = defaultCal ∧ (withArg w).params.angleFracBits = 16 :=
  fun _ _ => ⟨rfl, rfl⟩

theorem witness_PositionSurvivesTheRoundTrip : (busy []).params.cal = defaultCal ∧ (busy []).params.angleFracBits = 16 ∧
    (calEntry defaultCal .flexion).min ≤ (1500 : BitVec 12).toNat ∧
    (4095 : BitVec 12).toNat ≤ (calEntry defaultCal .flexion).max ∧
    (calEntry defaultCal .ulnar).min ≤ (1200 : BitVec 12).toNat ∧
    (3100 : BitVec 12).toNat ≤ (calEntry defaultCal .ulnar).max := by decide

theorem witness_AngleComesBackWithinHalfAPosition : (busy []).params.wellFormed = true ∧
    ((calEntry (busy []).params.cal .flexion).min : Int) ≤
      a2pRounded (busy []).params (calEntry (busy []).params.cal .flexion) (sext32 (busy []).arg) ∧
    a2pRounded (busy []).params (calEntry (busy []).params.cal .flexion) (sext32 (busy []).arg) ≤
      ((calEntry (busy []).params.cal .flexion).max : Int) ∧
    (busy []).params.cal = defaultCal ∧ (busy []).params.angleFracBits = 16 := by decide

theorem witness_RoundModeDoesNotMatterToMapP2a :
    (busy []).params.cal = defaultCal ∧ (busy []).params.angleFracBits = 16 := by decide

theorem witness_ServoIdsOfTheLutAreNotRead : ∀ i ∈ [Instr.encMove 1 2048, .encReadMoving 1, .ckInit, .ckByte 1, .ckFinal,
    .mapA2p .flexion, .mapP2a .ulnar 0], (after (exec i (busy []))).isSome = true := by decide

theorem witness_IllFormedParametersAreRefused :
    ¬ ParamsAccepted (withEntry { flexionEntry with grn := 0 }) := by
  rintro ⟨-, ⟨h, -⟩, -⟩
  exact absurd h (by decide)

theorem witness_ReservedErrCodeFaults : ({ busy [] with err := 3 } : State).params.wellFormed = true ∧
    3 ≤ ({ busy [] with err := 3 } : State).err.toNat := by decide

theorem witness_EveryCommandSucceedsButEmptyCkFinal : (busy []).params.wellFormed = true ∧
    State.reset.params.wellFormed = true := by decide

/-- One witness for each clause: a success, ILLEGAL, EMPTY, a read, a bus error, a reset. -/
theorem witness_ErrIsWrittenByCommandsOnly :
    (after (step (busy [memWrite .cmd 0x30000000]))).map State.err = some 0 ∧
    (after (step (busy [memWrite .cmd 0]))).map State.err = some 1 ∧
    (after (step (host [memWrite .cmd 0x50000000]))).map State.err = some 2 ∧
    (after (step (busy [memRead .arg]))).map State.err = some 2 ∧
    (after (step (busy [.access 0 1 (.write 0x10)]))).map State.err = some 2 ∧
    (after (step (busy [.reset]))).map State.err = some 0 := by decide

theorem witness_StickyHoldsUntilReset :
    (∀ e ∈ (host [memWrite .cmd 0, memWrite .cmd 0x30000000]).pending, e ≠ .reset) ∧
    (after (runSteps 2 (host [memWrite .cmd 0, memWrite .cmd 0x30000000]))).map State.sticky = some true ∧
    (after (runSteps 1 (host [memWrite .cmd 0x30000000]))).map State.sticky = some false := by decide

theorem witness_EachRegisterChangesOnlyByItsCommands :
    (after (step (busy [memWrite .cmd 0x40000001]))).isSome = true ∧
    (busy [memWrite .cmd 0x40000001]).pending.head? ≠ some .reset ∧
    (busy [memWrite .cmd 0x40000001]).nextCommand = some (.ckByte 1) := by decide

theorem witness_ParametersNeverChange : (after (runSteps 3 (busy [.reset, memWrite .cmd 0x60000000]))).isSome = true := by
  decide

/-- The invariant holds of a state with a packet, a sum and an error, and a step from it goes on. -/
theorem witness_StepKeepsInv : Inv (busy [memWrite .cmd 0x20010000]) ∧
    (after (step (busy [memWrite .cmd 0x20010000]))).isSome = true := by decide

theorem witness_NoHostSequenceStopsTheMachine : Inv (busy [.reset, .access 0x40 8 .read, memWrite .cmd 0xFFFFFFFF]) := by
  decide

theorem witness_EncMoveJSendsTheMappedPosition : Ready (busy (encMoveJStart .ulnar)) ∧
    (busy (encMoveJStart .ulnar)).pending = encMoveJStart .ulnar := by decide

/-- No byte fed, and one byte fed, with a CK_BYTE, a CK_INIT, an illegal word and a reset to come. -/
theorem witness_StepKeepsTheSumOfTheBytesFed :
    ∀ e ∈ [memWrite .cmd 0x400000FF, memWrite .cmd 0x30000000, memWrite .cmd 0, .reset],
      (Ready (host [e]) ∧ HoldsSum (host [e]) [] ∧ (host [e]).pending = e :: []) ∧
      (Ready (busy [e]) ∧ HoldsSum (busy [e]) [0x12] ∧ (busy [e]).pending = e :: []) := by decide

/-- The state after ENC_READ_MOVING 1 (V-Q1). -/
def queried (es : List HostEvent) : State :=
  { host es with frame := ⟨0xFF, 0xFF, 0x01, 0x04, 0x02, 0x42, 0x01, 0xB5, 0⟩, flen := 8 }

/-- No packet, an eight-byte packet and a nine-byte packet, with both packet-building commands and a reset to come. -/
theorem witness_StepKeepsTheLastPacket : ∀ e ∈ [memWrite .cmd 0x10010800, memWrite .cmd 0x20010000, .reset],
    (Ready (host [e]) ∧ HoldsPacket (host [e]) [] ∧ (host [e]).pending = e :: []) ∧
    (Ready (queried [e]) ∧ HoldsPacket (queried [e]) [0xFF, 0xFF, 0x01, 0x04, 0x02, 0x42, 0x01, 0xB5] ∧
      (queried [e]).pending = e :: []) ∧
    (Ready (busy [e]) ∧ HoldsPacket (busy [e]) [0xFF, 0xFF, 0x01, 0x05, 0x03, 0x2A, 0x00, 0x08, 0xC4] ∧
      (busy [e]).pending = e :: []) := by decide

end Sys2Proof.Tests
end

section
/-! The state after reset (10_state.md R37): what a zero frame and zero flags read as, and the obligation on them. -/

namespace Sys2Proof.Machine

/-- Each of the nine bytes of the cleared frame buffer is 0x00 (10_state.md R25). -/
theorem frame_zero_getElem? {i : Nat} (h : i < 9) : Frame.zero.bytes[i]? = some 0 := by
  have hbytes : Frame.zero.bytes = List.replicate 9 0 := rfl
  rw [hbytes, List.getElem?_replicate_of_lt h]

/-- STATUS is the four fields of R31 and nothing else: it reads 0 in every state where they are clear. -/
theorem State.status_eq_zero {s : State} (hsticky : s.sticky = false) (hflen : s.flen = 0) (hckne : s.ckne = false)
    (herr : s.err = 0) : s.status = 0 := by
  rw [State.status, hsticky, hflen, hckne, herr]
  rfl

/-- The calibration of this hardware is the LUT of 10_state.md R33. -/
theorem defaultParams_cal :
    defaultParams.cal = ⟨⟨9, 5, 4095, 2048, 1500, 4095, 1⟩, ⟨61, 20, 1900, 2150, 1200, 3100, 4⟩⟩ := rfl

/-- Settles O18: the fields of the reset state one by one, STATUS from its four fields, CAL from the default
parameters. -/
theorem resetStateIsAllZero : Obligations.ResetStateIsAllZero :=
  ⟨State.reset_arg, State.reset_result, fun _ hi => frame_zero_getElem? hi, State.reset_flen, State.reset_acc,
    State.reset_ckne, State.reset_err, State.reset_sticky,
    State.status_eq_zero State.reset_sticky State.reset_flen State.reset_ckne State.reset_err, defaultParams_cal⟩

end Sys2Proof.Machine
end

section
/-! Byte lanes of packed words (20_memory.md R46, R48): which byte of the frame buffer each lane of FRAME0 to FRAME2
shows, and the obligation on them. -/

namespace Sys2Proof.Machine

/-- The lowest byte appended is the first on the wire: it is lane 0 of the word (R46). -/
theorem extractLsb'_append_byte_zero {n : Nat} (hi : BitVec n) (b : Byte) : (hi ++ b).extractLsb' (8 * 0) 8 = b :=
  BitVec.extractLsb'_append_eq_right

/-- The lanes above the lowest byte are the lanes of the bits it was appended to. -/
theorem extractLsb'_append_byte_succ {n : Nat} (hi : BitVec n) (b : Byte) (i : Nat) :
    (hi ++ b).extractLsb' (8 * (i + 1)) 8 = hi.extractLsb' (8 * i) 8 :=
  BitVec.extractLsb'_append_eq_of_le (by omega)

/-- The lanes of a word packed from four bytes, lowest lane first, are those bytes. -/
theorem byteLane_append_four (b0 b1 b2 b3 : Byte) {i : Nat} (hi : i < 4) :
    byteLane (b3 ++ b2 ++ b1 ++ b0) i = [b0, b1, b2, b3].getD i 0 := by
  unfold byteLane
  match i, hi with
  | 0, _ => exact extractLsb'_append_byte_zero _ b0
  | 1, _ =>
    rw [extractLsb'_append_byte_succ]
    exact extractLsb'_append_byte_zero _ b1
  | 2, _ =>
    rw [extractLsb'_append_byte_succ, extractLsb'_append_byte_succ]
    exact extractLsb'_append_byte_zero _ b2
  | 3, _ =>
    rw [extractLsb'_append_byte_succ, extractLsb'_append_byte_succ, extractLsb'_append_byte_succ]
    exact BitVec.extractLsb'_eq_self

/-- A byte below 24 zero bits is lane 0, and every lane above it is zero. -/
theorem byteLane_zero_append (b : Byte) (i : Nat) : byteLane (0#24 ++ b) i = [b].getD i 0 := by
  unfold byteLane
  cases i with
  | zero => exact extractLsb'_append_byte_zero _ b
  | succ i =>
    rw [extractLsb'_append_byte_succ, BitVec.extractLsb'_zero, List.getD_cons_succ, List.getD_nil]
    rfl

/-- The frame buffer by host words (R43): two of four bytes, then the one byte left. -/
theorem frame_bytes_eq_words (f : Frame) :
    f.bytes = [f.b0, f.b1, f.b2, f.b3] ++ ([f.b4, f.b5, f.b6, f.b7] ++ [f.b8]) := rfl

theorem byteLane_frame0 (s : State) {i : Nat} (hi : i < 4) : byteLane s.frame0 i = s.frame.bytes.getD i 0 := by
  rw [State.frame0, byteLane_append_four _ _ _ _ hi, frame_bytes_eq_words, List.getD_append _ _ _ _ hi]

theorem byteLane_frame1 (s : State) {i : Nat} (hi : i < 4) :
    byteLane s.frame1 i = s.frame.bytes.getD (4 + i) 0 := by
  rw [State.frame1, byteLane_append_four _ _ _ _ hi, frame_bytes_eq_words,
    List.getD_append_right _ _ _ _ (Nat.le_add_right 4 i), List.getD_append _ _ _ _ (by simpa using hi)]
  simp

/-- FRAME2 needs no bound on the lane: above `FRAME[8]` the word reads zero and the buffer has no byte (R46). -/
theorem byteLane_frame2 (s : State) (i : Nat) : byteLane s.frame2 i = s.frame.bytes.getD (8 + i) 0 := by
  rw [State.frame2, byteLane_zero_append, frame_bytes_eq_words, ← List.append_assoc,
    List.getD_append_right _ _ _ _ (Nat.le_add_right 8 i)]
  simp

/-- Settles O13: the lanes of each of the three words, cut from the frame buffer in index order. -/
theorem frameWordsAreLittleEndian : Obligations.FrameWordsAreLittleEndian :=
  fun s i hi => ⟨byteLane_frame0 s hi, byteLane_frame1 s hi, byteLane_frame2 s i⟩

end Sys2Proof.Machine
end

section
/-! The opcode map and the decoder (30_encoding.md R64, R65). A row's mask is the union of the masks of its fixed fields,
`OP` and the must-be-zero fields, so a word matches the row exactly when it agrees with the row's match on each of them:
the tests the decoder makes. -/

namespace Sys2Proof

/-! ### Masks and fields -/

/-- The mask of the field of `n` bits from bit `lo` up. -/
def fieldMask (lo n : Nat) : Word := (BitVec.allOnes n).setWidth 32 <<< lo

theorem getLsbD_fieldMask (lo n k : Nat) :
    (fieldMask lo n).getLsbD k = true ↔ k < 32 ∧ lo ≤ k ∧ k < lo + n := by
  simp only [fieldMask, BitVec.getLsbD_shiftLeft, BitVec.getLsbD_setWidth, BitVec.getLsbD_allOnes, Bool.and_eq_true,
    Bool.not_eq_true', decide_eq_true_eq, decide_eq_false_iff_not]
  omega

/-- Two words agree under a mask when they agree at each bit of the mask. -/
theorem and_mask_eq_iff {c p m : Word} :
    c &&& m = p &&& m ↔ ∀ k, m.getLsbD k = true → c.getLsbD k = p.getLsbD k := by
  constructor
  · intro h k hk
    simpa [hk] using congrArg (BitVec.getLsbD · k) h
  · intro h
    refine BitVec.eq_of_getLsbD_eq fun k _ => ?_
    cases hk : m.getLsbD k with
    | false => simp [hk]
    | true => simp [hk, h k hk]

/-- To agree under two masks joined is to agree under each. -/
theorem and_mask_or_eq_iff {c p m n : Word} :
    c &&& (m ||| n) = p &&& (m ||| n) ↔ c &&& m = p &&& m ∧ c &&& n = p &&& n := by
  simp only [and_mask_eq_iff, BitVec.getLsbD_or, Bool.or_eq_true, or_imp, forall_and]

/-- Two words agree under a field's mask when the field holds the same value in both. -/
theorem and_fieldMask_eq_iff {c p : Word} {lo n : Nat} :
    c &&& fieldMask lo n = p &&& fieldMask lo n ↔ c.extractLsb' lo n = p.extractLsb' lo n := by
  simp only [and_mask_eq_iff, getLsbD_fieldMask]
  constructor
  · intro h
    refine BitVec.eq_of_getLsbD_eq fun k hk => ?_
    by_cases hlt : lo + k < 32
    · simp [hk, h (lo + k) ⟨hlt, by omega, by omega⟩]
    · simp [BitVec.getLsbD_of_ge _ (lo + k) (not_lt.mp hlt)]
  · rintro h k ⟨-, hlo, hhi⟩
    have hbit := congrArg (BitVec.getLsbD · (k - lo)) h
    simpa [show k - lo < n by omega, Nat.add_sub_cancel' hlo] using hbit

/-- The mask of a list of fields, each given by its lowest bit and its width. -/
def fieldsMask : List (Nat × Nat) → Word
  | [] => 0
  | f :: fs => fieldMask f.1 f.2 ||| fieldsMask fs

/-- Two words agree under the mask of a list of fields when each of the fields holds the same value in both. -/
theorem and_fieldsMask_eq_iff {c p : Word} {fs : List (Nat × Nat)} :
    c &&& fieldsMask fs = p &&& fieldsMask fs ↔ ∀ f ∈ fs, c.extractLsb' f.1 f.2 = p.extractLsb' f.1 f.2 := by
  induction fs with
  | nil => simp [fieldsMask]
  | cons f fs ih => rw [fieldsMask, and_mask_or_eq_iff, and_fieldMask_eq_iff, ih, List.forall_mem_cons]

/-! ### The rows of the opcode map -/

/-- The must-be-zero fields (lowest bit, width) of the format of an opcode (R62). -/
def mustBeZeroFields (op : BitVec 4) : List (Nat × Nat) :=
  match op.toNat with
  | 1 => [(24, 4)]
  | 2 => [(24, 4), (0, 16)]
  | 3 => [(0, 28)]
  | 4 => [(8, 20)]
  | 5 => [(0, 28)]
  | 6 => [(25, 3), (0, 24)]
  | 7 => [(25, 3), (12, 12)]
  | _ => []

/-- The fixed fields of a row are `OP` and the must-be-zero fields of its format: its mask is the mask of these fields,
and its match lies under the mask, with zero in the must-be-zero fields. -/
theorem opcodeRow_fields : ∀ r ∈ opcodeRows,
    r.mask = fieldsMask ((28, 4) :: mustBeZeroFields (opcodeField r.pattern)) ∧ r.pattern &&& r.mask = r.pattern ∧
    ∀ f ∈ mustBeZeroFields (opcodeField r.pattern), r.pattern.extractLsb' f.1 f.2 = 0 := by decide

/-- A word matches a row exactly when it has the row's opcode and zero in the must-be-zero fields. -/
theorem and_mask_eq_pattern_iff {r : OpcodeRow} (hr : r ∈ opcodeRows) (c : Word) :
    c &&& r.mask = r.pattern ↔ opcodeField c = opcodeField r.pattern ∧
      ∀ f ∈ mustBeZeroFields (opcodeField r.pattern), c.extractLsb' f.1 f.2 = 0 := by
  obtain ⟨hmask, hunder, hzero⟩ := opcodeRow_fields r hr
  calc c &&& r.mask = r.pattern
      ↔ c &&& r.mask = r.pattern &&& r.mask := by rw [hunder]
    _ ↔ opcodeField c = opcodeField r.pattern ∧ ∀ f ∈ mustBeZeroFields (opcodeField r.pattern),
          c.extractLsb' f.1 f.2 = r.pattern.extractLsb' f.1 f.2 := by
        rw [hmask, and_fieldsMask_eq_iff, List.forall_mem_cons]; rfl
    _ ↔ _ := and_congr_right' (forall₂_congr fun f hf => by rw [hzero f hf])

/-- No two command rows share a mnemonic. -/
theorem opcodeRow_eq_of_mnemonic : ∀ r ∈ opcodeRows, ∀ r' ∈ opcodeRows, r.mnemonic = r'.mnemonic → r = r' := by
  decide

/-- No two command rows share an opcode. -/
theorem opcodeRow_eq_of_opcode : ∀ r ∈ opcodeRows, ∀ r' ∈ opcodeRows,
    opcodeField r.pattern = opcodeField r'.pattern → r = r' := by decide

/-- A command row and a reserved row ask for different values of a bit both fix. -/
theorem opcodeRow_ne_reservedRow : ∀ r ∈ opcodeRows, ∀ r' ∈ reservedRows,
    r.pattern &&& r'.mask ≠ r'.pattern &&& r.mask := by decide

/-- The opcode of a command row is one of 0x1 to 0x7. -/
theorem opcodeRow_opcode_mem : ∀ r ∈ opcodeRows,
    opcodeField r.pattern ∈ [0x1#4, 0x2#4, 0x3#4, 0x4#4, 0x5#4, 0x6#4, 0x7#4] := by decide

/-! ### The rows and the decoder -/

/-- The words that decode: an opcode of 0x1 to 0x7, and zero in the must-be-zero fields of its format (R65, R66). -/
theorem exists_decode_ok_iff {c : Word} : (∃ i, decode c = .ok i) ↔
    opcodeField c ∈ [0x1#4, 0x2#4, 0x3#4, 0x4#4, 0x5#4, 0x6#4, 0x7#4] ∧
      ∀ f ∈ mustBeZeroFields (opcodeField c), c.extractLsb' f.1 f.2 = 0 := by
  constructor
  · rintro ⟨i, h⟩
    rcases decode_ok_cases h with ⟨hop, hz, -⟩ | ⟨hop, hz, hz', -⟩ | ⟨hop, hz, -⟩ | ⟨hop, hz, -⟩ | ⟨hop, hz, -⟩ |
      ⟨hop, hz, hz', -⟩ | ⟨hop, hz, hz', -⟩
    all_goals simp_all [mustBeZeroFields]
  · rintro ⟨hop, hz⟩
    simp only [List.mem_cons, List.not_mem_nil, or_false] at hop
    rcases hop with hop | hop | hop | hop | hop | hop | hop
    all_goals
      rw [hop] at hz
      simp_all [decode, mustBeZeroFields]

/-- A word decodes to the command whose row has its opcode. -/
theorem exists_row_of_decode_ok {c : Word} {i : Instr} (h : decode c = .ok i) :
    ∃ r ∈ opcodeRows, mnemonic i = r.mnemonic ∧ opcodeField c = opcodeField r.pattern := by
  rcases decode_ok_cases h with ⟨hop, -, rfl⟩ | ⟨hop, -, -, rfl⟩ | ⟨hop, -, rfl⟩ | ⟨hop, -, rfl⟩ | ⟨hop, -, rfl⟩ |
    ⟨hop, -, -, rfl⟩ | ⟨hop, -, -, rfl⟩
  all_goals
    simp only [hop, mnemonic]
    decide

/-- A word that decodes matches the row that has its opcode. -/
theorem and_mask_eq_pattern_of_decode_ok {r : OpcodeRow} (hr : r ∈ opcodeRows) {c : Word} {i : Instr}
    (h : decode c = .ok i) (hop : opcodeField c = opcodeField r.pattern) : c &&& r.mask = r.pattern :=
  (and_mask_eq_pattern_iff hr c).2 ⟨hop, hop ▸ (exists_decode_ok_iff.1 ⟨i, h⟩).2⟩

/-- A word matches a command row exactly when it decodes to a command with the row's mnemonic (R64). -/
theorem and_mask_eq_pattern_iff_decode {r : OpcodeRow} (hr : r ∈ opcodeRows) (c : Word) :
    c &&& r.mask = r.pattern ↔ ∃ i, decode c = .ok i ∧ mnemonic i = r.mnemonic := by
  constructor
  · intro hmatch
    obtain ⟨hop, hz⟩ := (and_mask_eq_pattern_iff hr c).1 hmatch
    rw [← hop] at hz
    obtain ⟨i, hi⟩ := exists_decode_ok_iff.2 ⟨hop ▸ opcodeRow_opcode_mem r hr, hz⟩
    obtain ⟨r', hr', hname, hop'⟩ := exists_row_of_decode_ok hi
    obtain rfl := opcodeRow_eq_of_opcode r hr r' hr' (hop.symm.trans hop')
    exact ⟨i, hi, hname⟩
  · rintro ⟨i, hi, hname⟩
    obtain ⟨r', hr', hname', hop⟩ := exists_row_of_decode_ok hi
    obtain rfl := opcodeRow_eq_of_mnemonic r hr r' hr' (hname.symm.trans hname')
    exact and_mask_eq_pattern_of_decode_ok hr hi hop

/-- A word of a reserved row is no command: it would match a command row too, and the two rows ask for different values
of a bit both fix. -/
theorem decode_error_of_reservedRow {r : OpcodeRow} (hr : r ∈ reservedRows) {c : Word}
    (hmatch : c &&& r.mask = r.pattern) : ∃ e, decode c = .error e := by
  cases h : decode c with
  | error e => exact ⟨e, rfl⟩
  | ok i =>
    obtain ⟨r', hr', -, hop⟩ := exists_row_of_decode_ok h
    have hmatch' := and_mask_eq_pattern_of_decode_ok hr' h hop
    refine absurd ?_ (opcodeRow_ne_reservedRow r' hr' r hr)
    rw [← hmatch, ← hmatch', BitVec.and_assoc, BitVec.and_assoc, BitVec.and_comm r'.mask]

/-- A word with the opcode of a command row decodes, or is illegal for its must-be-zero bits. -/
theorem decode_of_row_opcode {r : OpcodeRow} (hr : r ∈ opcodeRows) {c : Word}
    (hop : opcodeField c = opcodeField r.pattern) :
    (∃ i, decode c = .ok i) ∨ decode c = .error (.mustBeZero (opcodeField c)) := by
  cases h : decode c with
  | ok i => exact .inl ⟨i, rfl⟩
  | error x =>
    rcases decode_error_cases h with ⟨-, hnot⟩ | ⟨rfl, -⟩
    · exact absurd (hop ▸ opcodeRow_opcode_mem r hr) hnot
    · exact .inr rfl

/-- Settles O3: the obligation's literals are the rows of the opcode map, command and reserved. -/
theorem decoderFollowsTheOpcodeMap : Obligations.DecoderFollowsTheOpcodeMap := fun c =>
  ⟨(List.forall_mem_map (l := opcodeRows) (f := fun r => (r.mnemonic, r.pattern, r.mask))).2
      fun _ hr => and_mask_eq_pattern_iff_decode hr c,
    (List.forall_mem_map (l := reservedRows) (f := fun r => (r.pattern, r.mask))).2
      fun _ hr => decode_error_of_reservedRow hr⟩

/-- Settles O4: if the word decoded, it would match the row of its opcode, and the bit would be clear. -/
theorem mustBeZeroBitsAreIllegal : Obligations.MustBeZeroBitsAreIllegal := by
  intro r hr c k hop _ hmask hpattern hbit
  rcases decode_of_row_opcode hr hop with ⟨i, hi⟩ | herr
  · have hclear := congrArg (BitVec.getLsbD · k) (and_mask_eq_pattern_of_decode_ok hr hi hop)
    simp [hmask, hpattern, hbit] at hclear
  · exact herr

end Sys2Proof
end

section
/-! The frame codec commands (40_frame_codec.md R83 to R87): the word of each command as a number, the state in which it
completes as an update of the state before, and the obligations on them. -/

namespace Sys2Proof

/-! ### Encodings -/

theorem encode_encMove_toNat (sid : BitVec 8) (pos : BitVec 16) :
    (encode (.encMove sid pos)).toNat = 0x10000000 + sid.toNat * 2 ^ 16 + pos.toNat := by
  simp only [encode, append_toNat, BitVec.toNat_ofNat]
  omega

theorem encode_encReadMoving_toNat (sid : BitVec 8) :
    (encode (.encReadMoving sid)).toNat = 0x20000000 + sid.toNat * 2 ^ 16 := by
  simp only [encode, append_toNat, BitVec.toNat_ofNat]
  omega

theorem encode_ckInit : encode .ckInit = 0x30000000 := rfl

theorem encode_ckByte_toNat (b : BitVec 8) : (encode (.ckByte b)).toNat = 0x40000000 + b.toNat := by
  simp only [encode, append_toNat, BitVec.toNat_ofNat]
  omega

theorem encode_ckFinal : encode .ckFinal = 0x50000000 := rfl

end Sys2Proof

namespace Sys2Proof.Machine

/-! ### The packet builders -/

/-- A packet of nine bytes fills FRAME; loading it and succeeding writes FRAME, FLEN and ERR alone. -/
theorem loadPacket_nine_succeed (s : State) (a b c d e f g h i : Byte) :
    (s.loadPacket [a, b, c, d, e, f, g, h, i]).succeed =
      { s with frame := ⟨a, b, c, d, e, f, g, h, i⟩, flen := 9, err := 0 } := by
  rw [State.succeed, State.loadPacket, frame_ofPacket_nine]
  rfl

/-- A packet of eight bytes leaves `FRAME[8]` at 0x00 (10_state.md R25). -/
theorem loadPacket_eight_succeed (s : State) (a b c d e f g h : Byte) :
    (s.loadPacket [a, b, c, d, e, f, g, h]).succeed =
      { s with frame := ⟨a, b, c, d, e, f, g, h, 0⟩, flen := 8, err := 0 } := by
  rw [State.succeed, State.loadPacket, frame_ofPacket_eight]
  rfl

/-- ENC_MOVE (R83), as the update of FRAME, FLEN and ERR. -/
theorem exec_encMove (sid : BitVec 8) (pos : BitVec 16) (s : State) :
    exec (.encMove sid pos) s =
      .next { s with
        frame := ⟨0xFF, 0xFF, sid, 0x05, 0x03, 0x2A, posLow pos, posHigh pos,
          checksum sid [0x05, 0x03, 0x2A, posLow pos, posHigh pos]⟩,
        flen := 9, err := 0 } := by
  rw [exec, execEncMove, buildPacket_writePosition, loadPacket_nine_succeed]

/-- ENC_READ_MOVING (R84), as the update of FRAME, FLEN and ERR. -/
theorem exec_encReadMoving (sid : BitVec 8) (s : State) :
    exec (.encReadMoving sid) s =
      .next { s with
        frame := ⟨0xFF, 0xFF, sid, 0x04, 0x02, 0x42, 0x01, checksum sid [0x04, 0x02, 0x42, 0x01], 0x00⟩,
        flen := 8, err := 0 } := by
  rw [exec, execEncReadMoving, buildPacket_readMoving, loadPacket_eight_succeed]

/-- The checksum of the "write position" packet: its three fixed bytes sum to 0x32. -/
theorem checksum_writePosition_toNat (sid lo hi : Byte) :
    (checksum sid [0x05, 0x03, 0x2A, lo, hi]).toNat =
      255 - (sid.toNat + 0x32 + lo.toNat + hi.toNat) % 256 := by
  have hsum : byteSum [sid, 0x05, 0x03, 0x2A, lo, hi] = sid.toNat + 0x32 + lo.toNat + hi.toNat := by
    simp only [byteSum_cons, byteSum_nil, BitVec.reduceToNat]
    omega
  rw [checksum_toNat, hsum]

/-- The checksum of the "read moving flag" packet: its four fixed bytes sum to 0x49. -/
theorem checksum_readMoving_toNat (sid : Byte) :
    (checksum sid [0x04, 0x02, 0x42, 0x01]).toNat = 255 - (sid.toNat + 0x49) % 256 := by
  have hsum : byteSum [sid, 0x04, 0x02, 0x42, 0x01] = sid.toNat + 0x49 := by
    simp only [byteSum_cons, byteSum_nil, BitVec.reduceToNat]
  rw [checksum_toNat, hsum]

/-- Settles O21: the bytes of the position and the checksum over them are the ones the command puts in FRAME. -/
theorem encMoveBuildsTheWritePositionPacket : Obligations.EncMoveBuildsTheWritePositionPacket :=
  fun sid pos s =>
    ⟨encode_encMove_toNat sid pos, posLow pos, posHigh pos, _, posLow_toNat pos, posHigh_toNat pos,
      checksum_writePosition_toNat sid (posLow pos) (posHigh pos), checksumOf_cons _ _, exec_encMove sid pos s⟩

/-- Settles O22: the checksum over the query's fixed bytes is the one the command puts in FRAME. -/
theorem encReadMovingBuildsTheQueryPacket : Obligations.EncReadMovingBuildsTheQueryPacket :=
  fun sid s =>
    ⟨encode_encReadMoving_toNat sid, _, checksum_readMoving_toNat sid, checksumOf_cons _ _, exec_encReadMoving sid s⟩

/-! ### The streaming checksum -/

/-- CK_INIT (R85), as the update of ACC, CKNE and ERR. -/
theorem exec_ckInit (s : State) : exec .ckInit s = .next { s with acc := 0, ckne := false, err := 0 } := rfl

/-- CK_BYTE (R86), as the update of ACC, CKNE and ERR. -/
theorem exec_ckByte (b : BitVec 8) (s : State) :
    exec (.ckByte b) s = .next { s with acc := s.acc + b, ckne := true, err := 0 } := rfl

/-- CK_FINAL after a byte (R87), as the update of RESULT and ERR. -/
theorem exec_ckFinal_of_ckne {s : State} (h : s.ckne = true) :
    exec .ckFinal s = .next { s with result := BitVec.ofNat 32 (255 - s.acc.toNat), err := 0 } := by
  rw [exec, execCkFinal, if_pos h]
  rfl

/-- CK_FINAL with no byte added raises EMPTY (R87). -/
theorem exec_ckFinal_of_not_ckne {s : State} (h : s.ckne = false) :
    exec .ckFinal s = .next { s with err := 2, sticky := true } := by
  rw [exec, execCkFinal, if_neg (Bool.eq_false_iff.1 h)]
  rfl

/-- The complement of a byte fits a register: zero-extending it loses nothing. -/
theorem ofNat_complement_toNat (a : Byte) : (BitVec.ofNat 32 (255 - a.toNat)).toNat = 255 - a.toNat := by
  rw [BitVec.toNat_ofNat]
  omega

/-- Settles O24: the sum of two bytes keeps no carry. -/
theorem ckByteAddsModulo256 : Obligations.CkByteAddsModulo256 :=
  fun b s => ⟨encode_ckByte_toNat b, s.acc + b, BitVec.toNat_add s.acc b, exec_ckByte b s⟩

/-- Settles O23. -/
theorem ckInitStartsANewSum : Obligations.CkInitStartsANewSum :=
  fun s => ⟨encode_ckInit, exec_ckInit s⟩

/-- Settles O25: one case for each value of CKNE. -/
theorem ckFinalDeliversTheComplement : Obligations.CkFinalDeliversTheComplement :=
  fun s => ⟨encode_ckFinal, fun h => ⟨_, ofNat_complement_toNat s.acc, exec_ckFinal_of_ckne h⟩,
    exec_ckFinal_of_not_ckne⟩

end Sys2Proof.Machine
end

section
/-! The joint mapper (41_joint_mapper.md R101 to R105): how far each rounding lies from the quotient and what it does at
an exact half, the state in which each mapper command completes, and the obligations on them. -/

namespace Sys2Proof

/-! ### Encodings -/

theorem encode_mapA2p_toNat (j : Joint) :
    (encode (.mapA2p j)).toNat = 0x60000000 + (bitOfJoint j).toNat * 2 ^ 24 := by
  cases j <;> rfl

theorem encode_mapP2a_toNat (j : Joint) (p : BitVec 12) :
    (encode (.mapP2a j p)).toNat = 0x70000000 + (bitOfJoint j).toNat * 2 ^ 24 + p.toNat := by
  simp only [encode, append_toNat, BitVec.toNat_ofNat]
  omega

end Sys2Proof

namespace Sys2Proof.Machine

/-! ### The derived ratio -/

theorem degreesPerPosition_flexionEntry : degreesPerPosition flexionEntry = 40 / 819 := by
  norm_num [degreesPerPosition, flexionEntry]

theorem degreesPerPosition_ulnarEntry : degreesPerPosition ulnarEntry = 72 / 1159 := by
  norm_num [degreesPerPosition, ulnarEntry]

/-- Settles O32: the two divisions by the gear ratio are one, with its denominator above; this asks no entry to be
non-zero. -/
theorem degreesPerPositionIsExact : Obligations.DegreesPerPositionIsExact :=
  ⟨fun e => by rw [degreesPerPosition, div_mul_eq_mul_div, div_div_eq_mul_div],
    degreesPerPosition_flexionEntry, degreesPerPosition_ulnarEntry⟩

/-! ### Rounding: `HALF_AWAY` -/

/-- `HALF_AWAY` is symmetric about zero: below it, the mirror image of the rounding above. -/
theorem roundHalfAway_of_neg {n : Int} (hn : n < 0) (d : Int) : roundHalfAway n d = -roundHalfAway (-n) d := by
  rw [roundHalfAway, roundHalfAway, if_neg (by omega), if_pos (by omega), Int.mul_neg, Int.neg_mul]

theorem roundingError_neg (q n d : Int) : roundingError (-q) n d = -roundingError q (-n) d := by
  unfold roundingError
  ring

/-- From zero up, `HALF_AWAY` misses the quotient by what the remainder of its one division leaves of `d`. -/
theorem roundingError_roundHalfAway {n : Int} (hn : 0 ≤ n) (d : Int) :
    roundingError (roundHalfAway n d) n d = d - (2 * n + d) % (2 * d) := by
  have hdiv := Int.mul_ediv_add_emod (2 * n + d) (2 * d)
  rw [roundHalfAway, if_pos hn, roundingError]
  linarith

theorem abs_roundingError_roundHalfAway_le (n : Int) {d : Int} (hd : 0 < d) :
    |roundingError (roundHalfAway n d) n d| ≤ d := by
  have hnonneg : ∀ m : Int, 0 ≤ m → |roundingError (roundHalfAway m d) m d| ≤ d := fun m hm => by
    rw [roundingError_roundHalfAway hm, abs_le]
    have := Int.emod_nonneg (2 * m + d) (show 2 * d ≠ 0 by omega)
    have := Int.emod_lt_of_pos (2 * m + d) (show 0 < 2 * d by omega)
    omega
  rcases lt_or_ge n 0 with hn | hn
  · rw [roundHalfAway_of_neg hn, roundingError_neg, abs_neg]
    exact hnonneg (-n) (by omega)
  · exact hnonneg n hn

/-! ### Rounding: `HALF_EVEN` -/

/-- `HALF_EVEN` by the remainder of the division (R102). -/
theorem roundHalfEven_eq (n d : Int) :
    roundHalfEven n d = if 2 * (n % d) < d then n / d else if d < 2 * (n % d) then n / d + 1
      else if n / d % 2 = 0 then n / d else n / d + 1 := by
  rw [Int.emod_def, Int.mul_comm d]
  rfl

/-- `HALF_EVEN` answers one of the two integers about the quotient, and the farther one only at a tie. -/
theorem roundHalfEven_cases (n d : Int) :
    (roundHalfEven n d = n / d ∧ 2 * (n % d) ≤ d) ∨ (roundHalfEven n d = n / d + 1 ∧ d ≤ 2 * (n % d)) := by
  rw [roundHalfEven_eq]
  split_ifs <;> omega

theorem abs_roundingError_roundHalfEven_le (n : Int) {d : Int} (hd : 0 < d) :
    |roundingError (roundHalfEven n d) n d| ≤ d := by
  have hdiv := Int.mul_ediv_add_emod n d
  have hlo := Int.emod_nonneg n hd.ne'
  have hhi := Int.emod_lt_of_pos n hd
  rw [roundingError, abs_le]
  rcases roundHalfEven_cases n d with ⟨hq, hr⟩ | ⟨hq, hr⟩
  · rw [hq]
    constructor <;> linarith
  · rw [hq]
    constructor <;> linarith

/-- Both modes round to a nearest integer (R102). -/
theorem abs_roundingError_roundQ_le (mode : RoundMode) (n : Int) {d : Int} (hd : 0 < d) :
    |roundingError (roundQ mode n d) n d| ≤ d := by
  cases mode with
  | halfAway => exact abs_roundingError_roundHalfAway_le n hd
  | halfEven => exact abs_roundingError_roundHalfEven_le n hd

/-! ### Rounding at an exact half -/

/-- An integer half a unit away from the quotient makes the quotient an odd number of halves. -/
theorem two_mul_eq_odd_mul_of_half {q n d : Int} (hd : 0 < d) (h : |roundingError q n d| = d) :
    ∃ t, 2 * n = (2 * t + 1) * d := by
  rw [roundingError, abs_eq hd.le] at h
  rcases h with h | h
  · exact ⟨q - 1, by linarith⟩
  · exact ⟨q, by linarith⟩

/-- From zero up, `HALF_AWAY` takes a half to the integer above. -/
theorem lt_roundHalfAway_mul_of_half {n d t : Int} (hd : 0 < d) (hn : 0 ≤ n) (h : 2 * n = (2 * t + 1) * d) :
    n < roundHalfAway n d * d := by
  have hdvd : (2 * n + d) % (2 * d) = 0 := Int.emod_eq_zero_of_dvd ⟨t + 1, by linarith⟩
  have herr := roundingError_roundHalfAway hn d
  rw [hdvd, roundingError] at herr
  linarith

theorem abs_lt_abs_roundHalfAway_mul_of_half {n d t : Int} (hd : 0 < d) (h : 2 * n = (2 * t + 1) * d) :
    |n| < |roundHalfAway n d * d| := by
  rcases lt_or_ge n 0 with hn | hn
  · have hlt := lt_roundHalfAway_mul_of_half (t := -t - 1) hd (show 0 ≤ -n by omega) (by linarith)
    rw [roundHalfAway_of_neg hn, Int.neg_mul, abs_neg, abs_of_neg hn]
    exact hlt.trans_le (le_abs_self _)
  · rw [abs_of_nonneg hn]
    exact (lt_roundHalfAway_mul_of_half hd hn h).trans_le (le_abs_self _)

/-- At a half the division leaves half of `d`, so `HALF_EVEN` goes by the parity of the quotient. -/
theorem roundHalfEven_emod_two_of_half {n d t : Int} (hd : 0 < d) (h : 2 * n = (2 * t + 1) * d) :
    roundHalfEven n d % 2 = 0 := by
  obtain ⟨hquot, hrem⟩ := (Int.ediv_emod_unique hd).2
    ⟨show n - d * t + d * t = n by omega, by linarith, by linarith⟩
  have htie : 2 * (n % d) = d := by rw [hrem]; linarith
  rw [roundHalfEven_eq, htie, hquot]
  split_ifs <;> omega

/-- Settles O33: the bound on the error of each mode, then the exact halves, then the rule's examples. -/
theorem roundQRoundsToNearest : Obligations.RoundQRoundsToNearest := by
  intro n d hd
  refine ⟨rfl, roundHalfEven_eq n d, fun mode => abs_roundingError_roundQ_le mode n hd, ?_, rfl, rfl, rfl, rfl⟩
  intro q hq
  obtain ⟨t, ht⟩ := two_mul_eq_odd_mul_of_half hd hq
  exact ⟨abs_lt_abs_roundHalfAway_mul_of_half hd ht, roundHalfEven_emod_two_of_half hd ht⟩

/-! ### Words of the results -/

/-- The signed reading of a word in the statements is the one the mapper uses (41_joint_mapper.md R100). -/
theorem sext32_eq_angleOperand (w : Word) : sext32 w = angleOperand w := by
  rw [sext32, angleOperand, BitVec.toInt_eq_toNat_cond]
  split_ifs <;> omega

/-- A signed number that fits comes back from its two's complement word. -/
theorem sext32_ofInt {x : Int} (hlo : -2147483648 ≤ x) (hhi : x ≤ 2147483647) : sext32 (BitVec.ofInt 32 x) = x := by
  rw [sext32_eq_angleOperand, angleOperand, BitVec.toInt_ofInt]
  exact Int.bmod_eq_of_le (by omega) (by omega)

/-- A natural number of at most 32 bits comes back from its zero-extended word. -/
theorem ofInt_toNat {x : Int} (hlo : 0 ≤ x) (hhi : x < 4294967296) : ((BitVec.ofInt 32 x).toNat : Int) = x := by
  rw [BitVec.toNat_ofInt]
  omega

/-! ### MAP_A2P -/

theorem a2pDenominator_eq (frac : Nat) (e : CalEntry) : a2pDenominator frac e = (e.grd : Int) * 360 * 2 ^ frac := by
  simp [a2pDenominator]

/-- A clamped position is a 12-bit number, as `MAX` is (10_state.md R34). -/
theorem a2pPosition_mem {p : Params} {e : CalEntry} (h : entryWellFormed p e = true) (a : Int) :
    0 ≤ a2pPosition p e a ∧ a2pPosition p e a ≤ 4095 := by
  obtain ⟨-, -, -, hminmax, hmax, -⟩ := (entryWellFormed_iff p e).1 h
  have hle : (e.min : Int) ≤ e.max := by exact_mod_cast hminmax
  have hlo : (e.min : Int) ≤ a2pPosition p e a := le_clamp hle
  have hhi : a2pPosition p e a ≤ e.max := clamp_le hle
  omega

/-- MAP_A2P (R104), as the update of RESULT and ERR. -/
theorem exec_mapA2p {s : State} (h : s.params.wellFormed = true) (j : Joint) :
    exec (.mapA2p j) s = .next { s with
      result := BitVec.ofInt 32 (a2pPosition s.params (calEntry s.params.cal j) (angleOperand s.arg)), err := 0 } := by
  rw [exec, execMapA2p, whenWellFormed_of_wellFormed _ h]
  rfl

/-- Settles O34: the obligation's `D` is the divisor of the model, and the clamped position fits RESULT. -/
theorem mapA2pGivesTheClampedPosition : Obligations.MapA2pGivesTheClampedPosition := by
  intro j s
  refine ⟨encode_mapA2p_toNat j, fun h => ?_⟩
  have hentry := entryWellFormed_of_wellFormed h j
  obtain ⟨-, hgrd, -⟩ := (entryWellFormed_iff _ _).1 hentry
  obtain ⟨hlo, hhi⟩ := a2pPosition_mem hentry (angleOperand s.arg)
  rw [sext32_eq_angleOperand]
  intro e d n p
  have hd : a2pDenominator s.params.angleFracBits e = d := a2pDenominator_eq _ _
  have hp : a2pPosition s.params e (angleOperand s.arg) = clamp p e.min e.max := by
    rw [a2pPosition, a2pRounded, a2pNumerator, hd]
  exact ⟨hd ▸ a2pDenominator_pos hgrd, _, (ofInt_toNat hlo (by omega)).trans hp, exec_mapA2p h j⟩

/-! ### MAP_P2A -/

theorem p2aNumerator_eq (frac : Nat) (e : CalEntry) (pos : Nat) :
    p2aNumerator frac e pos = ((pos : Int) - (e.center : Int)) * 360 * (e.grd : Int) * 2 ^ frac := by
  simp [p2aNumerator]

theorem p2aNumerator_mono (frac : Nat) (e : CalEntry) {pos pos' : Nat} (h : pos ≤ pos') :
    p2aNumerator frac e pos ≤ p2aNumerator frac e pos' := by
  unfold p2aNumerator
  gcongr

/-- MAP_P2A is monotone in the position. -/
theorem p2aAngle_mono (p : Params) {e : CalEntry} (hgrn : 1 ≤ e.grn) (hrange : 1 ≤ e.range) {pos pos' : Nat}
    (h : pos ≤ pos') : p2aAngle p e pos ≤ p2aAngle p e pos' :=
  roundQ_mono p.roundMode (p2aDenominator_pos hgrn hrange) (p2aNumerator_mono p.angleFracBits e h)

theorem p2aFits_iff (p : Params) (e : CalEntry) (pos : Nat) :
    p2aFits p e pos = true ↔ -2147483648 ≤ p2aAngle p e pos ∧ p2aAngle p e pos ≤ 2147483647 := by
  simp [p2aFits]

/-- The angle of every position lies between those of the two ends, which the check of the entry tests (10_state.md
R34). -/
theorem p2aAlwaysFits_of_entryWellFormed {p : Params} {e : CalEntry} (h : entryWellFormed p e = true) :
    P2aAlwaysFits p e := by
  intro pos hpos
  obtain ⟨hgrn, -, hrange, -, -, -, hfits0, hfits4095⟩ := (entryWellFormed_iff p e).1 h
  obtain ⟨hlo, -⟩ := (p2aFits_iff p e 0).1 hfits0
  obtain ⟨-, hhi⟩ := (p2aFits_iff p e 4095).1 hfits4095
  exact (p2aFits_iff p e pos).2
    ⟨hlo.trans (p2aAngle_mono p hgrn hrange (Nat.zero_le pos)), (p2aAngle_mono p hgrn hrange hpos).trans hhi⟩

/-- MAP_P2A (R105), as the update of RESULT and ERR. -/
theorem exec_mapP2a {s : State} (h : s.params.wellFormed = true) (j : Joint) (p : BitVec 12) :
    exec (.mapP2a j p) s = .next { s with
      result := BitVec.ofInt 32 (p2aAngle s.params (calEntry s.params.cal j) p.toNat), err := 0 } := by
  rw [exec, execMapP2a, whenWellFormed_of_wellFormed _ h]
  rfl

/-- Settles O35: the obligation's `N` is the model's, and the angle of a 12-bit position fits RESULT. -/
theorem mapP2aGivesTheAngle : Obligations.MapP2aGivesTheAngle := by
  intro j p s
  refine ⟨encode_mapP2a_toNat j p, fun h => ?_⟩
  have hentry := entryWellFormed_of_wellFormed h j
  obtain ⟨hgrn, -, hrange, -⟩ := (entryWellFormed_iff _ _).1 hentry
  obtain ⟨hlo, hhi⟩ := (p2aFits_iff _ _ _).1 (p2aAlwaysFits_of_entryWellFormed hentry p.toNat (by omega))
  intro e n d
  have hangle : p2aAngle s.params e p.toNat = roundQ s.params.roundMode n d := by
    rw [p2aAngle, p2aNumerator_eq, p2aDenominator]
  exact ⟨p2aDenominator_pos hgrn hrange, _, (sext32_ofInt hlo hhi).trans hangle, exec_mapP2a h j p⟩

end Sys2Proof.Machine
end

section
/-! Decoder and encoder are inverse (30_encoding.md R60 to R67): every command has its own word, every word that decodes
is the word of its command, and the assembler's table (R70) gives that word as a number. -/

namespace Sys2Proof

/-! ### Decoding a command's word -/

/-- A field whose bits are all clear holds zero. -/
theorem field_eq_zero {c : Word} {lo n : Nat} (h : c.toNat / 2 ^ lo % 2 ^ n = 0) : c.extractLsb' lo n = 0 :=
  field_eq (h.trans BitVec.toNat_zero.symm)

theorem decode_encode_encMove (sid : BitVec 8) (pos : BitVec 16) :
    decode (encode (.encMove sid pos)) = .ok (.encMove sid pos) := by
  have hop : opcodeField (encode (.encMove sid pos)) = 0x1#4 := Laws.OpcodeBits.encMove sid pos
  have hword := encode_encMove_toNat sid pos
  generalize encode (.encMove sid pos) = c at hop hword
  have hzero : c.extractLsb' 24 4 = 0 := field_eq_zero (by omega)
  have hsid : sidField c = sid := field_eq (by omega)
  have hpos : posField c = pos := field_eq (by omega)
  simp [decode, hop, hzero, hsid, hpos]

theorem decode_encode_encReadMoving (sid : BitVec 8) :
    decode (encode (.encReadMoving sid)) = .ok (.encReadMoving sid) := by
  have hop : opcodeField (encode (.encReadMoving sid)) = 0x2#4 := Laws.OpcodeBits.encReadMoving sid
  have hword := encode_encReadMoving_toNat sid
  generalize encode (.encReadMoving sid) = c at hop hword
  have hhigh : c.extractLsb' 24 4 = 0 := field_eq_zero (by omega)
  have hlow : c.extractLsb' 0 16 = 0 := field_eq_zero (by omega)
  have hsid : sidField c = sid := field_eq (by omega)
  simp [decode, hop, hhigh, hlow, hsid]

theorem decode_encode_ckByte (b : BitVec 8) : decode (encode (.ckByte b)) = .ok (.ckByte b) := by
  have hop : opcodeField (encode (.ckByte b)) = 0x4#4 := Laws.OpcodeBits.ckByte b
  have hword := encode_ckByte_toNat b
  generalize encode (.ckByte b) = c at hop hword
  have hzero : c.extractLsb' 8 20 = 0 := field_eq_zero (by omega)
  have hbyte : byteField c = b := field_eq (by omega)
  simp [decode, hop, hzero, hbyte]

theorem decode_encode_mapP2a (j : Joint) (p : BitVec 12) : decode (encode (.mapP2a j p)) = .ok (.mapP2a j p) := by
  have hop : opcodeField (encode (.mapP2a j p)) = 0x7#4 := Laws.OpcodeBits.mapP2a j p
  have hword := encode_mapP2a_toNat j p
  generalize encode (.mapP2a j p) = c at hop hword
  have hhigh : c.extractLsb' 25 3 = 0 := field_eq_zero (by omega)
  have hmid : c.extractLsb' 12 12 = 0 := field_eq_zero (by omega)
  have hbit : c.extractLsb' 24 1 = bitOfJoint j := field_eq (by omega)
  have hp : pField c = p := field_eq (by omega)
  simp [decode, hop, hhigh, hmid, jointField, hbit, hp]

/-- The decoder reads back every command's word. -/
theorem decode_encode (i : Instr) : decode (encode i) = .ok i := by
  cases i with
  | encMove sid pos => exact decode_encode_encMove sid pos
  | encReadMoving sid => exact decode_encode_encReadMoving sid
  | ckInit => rfl
  | ckByte b => exact decode_encode_ckByte b
  | ckFinal => rfl
  | mapA2p j => cases j <;> rfl
  | mapP2a j p => exact decode_encode_mapP2a j p

/-- Settles O1. -/
theorem decodeReadsBackEncode : Obligations.DecodeReadsBackEncode := decode_encode

/-! ### Encoding what a word decodes to -/

/-- The opcode and the fields of a word that decodes fix every bit of it: the command's word, field by field, is the
number the word is. -/
theorem encode_of_decode_ok {c : Word} {i : Instr} (h : decode c = .ok i) : encode i = c := by
  apply BitVec.eq_of_toNat_eq
  have hlt := c.isLt
  rcases decode_ok_cases h with ⟨hop, hz, rfl⟩ | ⟨hop, hz, hz', rfl⟩ | ⟨hop, hz, rfl⟩ | ⟨hop, hz, rfl⟩ |
    ⟨hop, hz, rfl⟩ | ⟨hop, hz, hz', rfl⟩ | ⟨hop, hz, hz', rfl⟩
  all_goals
    clear h
    simp only [opcodeField, ← BitVec.toNat_inj, field_toNat, BitVec.toNat_ofNat, BitVec.ofNat_eq_ofNat] at *
    simp only [encode, append_toNat, sidField, posField, byteField, pField, jointField, bitOfJoint_jointOfBit,
      field_toNat, BitVec.toNat_ofNat]
    omega

/-- Settles O2. -/
theorem encodeReadsBackDecode : Obligations.EncodeReadsBackDecode := fun _ _ => encode_of_decode_ok

/-- Settles O5: each of the seven words, evaluated. -/
theorem specWordsDecode : Obligations.SpecWordsDecode := ⟨rfl, rfl, rfl, rfl, rfl, rfl, rfl⟩

end Sys2Proof

namespace Sys2Proof.Machine

/-! ### The assembler -/

theorem assemble_of_wellFormed {c : AsmCommand} (h : c.wellFormed = true) : assemble c = .ok (AsmCommand.toInstr c) :=
  if_pos h

theorem assemble_of_not_wellFormed {c : AsmCommand} (h : c.wellFormed = false) :
    assemble c = .error .operandOutOfRange :=
  if_neg (Bool.eq_false_iff.1 h)

/-- A joint number in range is the bit that selects the joint. -/
theorem bitOfJoint_jointOfNat_toNat {j : Nat} (h : j ≤ 1) : (bitOfJoint (jointOfNat j)).toNat = j := by
  interval_cases j <;> rfl

/-- Operands in range pass through the fields unchanged, so the word is the table's sum (R70). -/
theorem encode_toInstr_toNat {c : AsmCommand} (h : c.wellFormed = true) : (encode (AsmCommand.toInstr c)).toNat = asmWord c := by
  cases c with
  | encMove sid pos =>
    simp only [AsmCommand.wellFormed, Bool.and_eq_true, decide_eq_true_eq] at h
    simp only [AsmCommand.toInstr, encode_encMove_toNat, BitVec.toNat_ofNat, asmWord]
    omega
  | encReadMoving sid =>
    simp only [AsmCommand.wellFormed, decide_eq_true_eq] at h
    simp only [AsmCommand.toInstr, encode_encReadMoving_toNat, BitVec.toNat_ofNat, asmWord]
    omega
  | ckInit => rfl
  | ckByte b =>
    simp only [AsmCommand.wellFormed, decide_eq_true_eq] at h
    simp only [AsmCommand.toInstr, encode_ckByte_toNat, BitVec.toNat_ofNat, asmWord]
    omega
  | ckFinal => rfl
  | mapA2p j =>
    simp only [AsmCommand.wellFormed, decide_eq_true_eq] at h
    simp only [AsmCommand.toInstr, encode_mapA2p_toNat, bitOfJoint_jointOfNat_toNat h, asmWord]
  | mapP2a j p =>
    simp only [AsmCommand.wellFormed, Bool.and_eq_true, decide_eq_true_eq] at h
    obtain ⟨hj, hp⟩ := h
    simp only [AsmCommand.toInstr, encode_mapP2a_toNat, bitOfJoint_jointOfNat_toNat hj, BitVec.toNat_ofNat, asmWord]
    omega

/-- Settles O6: one case for each answer of the range check. -/
theorem assemblerWritesTheTableWord : Obligations.AssemblerWritesTheTableWord :=
  fun c => ⟨fun h => ⟨AsmCommand.toInstr c, assemble_of_wellFormed h, encode_toInstr_toNat h⟩, assemble_of_not_wellFormed⟩

end Sys2Proof.Machine
end

section
/-! Steps and host accesses (20_memory.md R42 to R48): every event is a reset, a read of a readable register, a write of
ARG, a write of CMD, or an access answered by a bus error; what a step does in each of these cases, and the obligations
on single steps. -/

namespace Sys2Proof.Machine

/-! ### The register map -/

@[simp] theorem regAt_regOffset (r : WindowReg) : regAt (regOffset r) = some r := by
  cases r <;> rfl

theorem regOffset_of_regAt {off : Nat} {r : WindowReg} (h : regAt off = some r) : off = regOffset r := by
  unfold regAt at h
  split_ifs at h <;> cases h <;> assumption

theorem accessAligned_eq_true {off n : Nat} : accessAligned off n = true ↔ n = 4 ∧ off % 4 = 0 ∧ off ≤ 0x1F := by
  simp [accessAligned, and_assoc]

theorem accessAligned_regOffset (r : WindowReg) : accessAligned (regOffset r) 4 = true := by
  cases r <;> rfl

theorem readReg_eq_none {r : WindowReg} {s : State} : readReg r s = none ↔ r = .cmd := by
  cases r <;> simp [readReg]

/-- The only register the host cannot read is CMD (R43). -/
theorem exists_readReg {r : WindowReg} (h : r ≠ .cmd) (s : State) : ∃ v, readReg r s = some v :=
  Option.ne_none_iff_exists'.1 fun hnone => h (readReg_eq_none.1 hnone)

/-- A read sees FCJM's own state, not the model's view of the host. -/
theorem readReg_congr_block {s t : State} (h : t.block = s.block) (r : WindowReg) : readReg r t = readReg r s := by
  cases s; cases t
  simp only [State.block, State.mk.injEq] at h
  obtain ⟨rfl, rfl, rfl, rfl, rfl, rfl, rfl, rfl, rfl, -, -⟩ := h
  cases r <;> rfl

/-! ### The kinds of events -/

/-- The accesses the window does not perform (R42, R43): a size or an offset R42 turns away, a read of CMD or of the
reserved word, a write of anything but CMD and ARG. -/
def Rejected (off n : Nat) : AccessKind → Prop
  | .read => accessAligned off n = true → ∀ r, regAt off = some r → r = .cmd
  | .write _ => accessAligned off n = true → ∀ r, regAt off = some r → r ≠ .cmd ∧ r ≠ .arg

/-- What an event is to the window. -/
inductive EventKind : HostEvent → Prop
  | reset : EventKind .reset
  | read (r : WindowReg) (h : r ≠ .cmd) : EventKind (memRead r)
  | writeArg (v : Word) : EventKind (memWrite .arg v)
  | writeCmd (c : Word) : EventKind (memWrite .cmd c)
  | rejected (off n : Nat) (kind : AccessKind) (h : Rejected off n kind) : EventKind (.access off n kind)

/-- Every event is of one of the kinds. -/
theorem eventKind (e : HostEvent) : EventKind e := by
  cases e with
  | reset => exact .reset
  | access off n kind =>
    by_cases hrej : Rejected off n kind
    · exact .rejected off n kind hrej
    · cases kind with
      | read =>
        simp only [Rejected, Classical.not_imp, not_forall] at hrej
        obtain ⟨ha, r, hr, hne⟩ := hrej
        obtain ⟨rfl, -⟩ := accessAligned_eq_true.1 ha
        obtain rfl := regOffset_of_regAt hr
        exact .read r hne
      | write v =>
        simp only [Rejected, Classical.not_imp, not_forall, not_and_or, not_not] at hrej
        obtain ⟨ha, r, hr, hw⟩ := hrej
        obtain ⟨rfl, -⟩ := accessAligned_eq_true.1 ha
        obtain rfl := regOffset_of_regAt hr
        rcases hw with rfl | rfl
        · exact .writeCmd v
        · exact .writeArg v

theorem Rejected.cmdWord_eq_none {off n : Nat} {kind : AccessKind} (h : Rejected off n kind) :
    cmdWord (.access off n kind) = none := by
  cases kind with
  | read => rfl
  | write c =>
    refine if_neg ?_
    rintro ⟨rfl, rfl⟩
    exact (h rfl .cmd rfl).1 rfl

theorem eventCommand_memWrite_cmd_of_ok {c : Word} {i : Instr} (h : decode c = .ok i) :
    eventCommand (memWrite .cmd c) = some i :=
  eventCommand_eq_some.2 ⟨c, cmdWord_memWrite_cmd c, h⟩

theorem eventCommand_memWrite_cmd_of_error {c : Word} {x : DecodeError} (h : decode c = .error x) :
    eventCommand (memWrite .cmd c) = none := by
  simp [eventCommand, cmdWord_memWrite_cmd, h]

/-! ### What each kind of event does -/

theorem hostAccess_rejected {off n : Nat} {kind : AccessKind} (h : Rejected off n kind) (s : State) :
    hostAccess off n kind s = busError off s := by
  by_cases ha : accessAligned off n = true
  · cases kind with
    | read =>
      have hnone : (regAt off).bind (fun r => readReg r s) = none :=
        Option.bind_eq_none_iff.2 fun r hr => readReg_eq_none.2 (h ha r hr)
      simp only [hostAccess, ha, if_true, readAccess, hnone]
    | write v =>
      simp only [hostAccess, ha, if_true, writeAccess]
      split
      case h_1 hr => exact absurd rfl (h ha _ hr).1
      case h_2 hr => exact absurd rfl (h ha _ hr).2
      case h_3 => rfl
  · exact hostAccess_misaligned (Bool.eq_false_iff.2 ha)

theorem performEvent_reset (rest : List HostEvent) (s : State) :
    performEvent .reset rest s = .next (s.resetWith rest) := rfl

theorem performEvent_rejected {off n : Nat} {kind : AccessKind} (h : Rejected off n kind) (rest : List HostEvent)
    (s : State) :
    performEvent (.access off n kind) rest s = .next { s with pending := rest, response := .busError off } :=
  hostAccess_rejected h _

theorem performEvent_memRead {r : WindowReg} {s : State} {v : Word} (h : readReg r s = some v)
    (rest : List HostEvent) :
    performEvent (memRead r) rest s = .next { s with pending := rest, response := .data v } := by
  have hpending : readReg r (s.setPending rest) = some v := (readReg_congr_block rfl r).trans h
  simp only [memRead, performEvent, hostAccess, accessAligned_regOffset, if_true, readAccess, regAt_regOffset,
    Option.bind_some, hpending]
  rfl

theorem performEvent_memWrite_arg (v : Word) (rest : List HostEvent) (s : State) :
    performEvent (memWrite .arg v) rest s = .next { s with arg := v, pending := rest, response := .written } := rfl

theorem performEvent_memWrite_cmd (c : Word) (rest : List HostEvent) (s : State) :
    performEvent (memWrite .cmd c) rest s = execute c { s with pending := rest, response := .written } := rfl

theorem execute_of_ok {c : Word} {i : Instr} (h : decode c = .ok i) (s : State) : execute c s = exec i s := by
  simp only [execute, h]

theorem execute_of_error {c : Word} {x : DecodeError} (h : decode c = .error x) (s : State) :
    execute c s = .next { s with err := 1, sticky := true } := by
  simp only [execute, h]
  rfl

/-! ### Steps -/

/-- A CMD write of a command's word is the command on the state in which the write has been taken and answered. -/
theorem step_of_command {s : State} {i : Instr} {c : Word} {rest : List HostEvent} (hr : Ready s)
    (hp : s.pending = memWrite .cmd c :: rest) (hc : decode c = .ok i) :
    step s = exec i { s with pending := rest, response := .written } := by
  rw [step_of_pending hr hp, performEvent_memWrite_cmd, execute_of_ok hc]

theorem step_of_cmdWrite {s : State} {i : Instr} {rest : List HostEvent} (hr : Ready s)
    (hp : s.pending = cmdWrite i :: rest) : step s = exec i { s with pending := rest, response := .written } :=
  step_of_command hr hp (decode_encode i)

theorem step_of_illegal {s : State} {c : Word} {x : DecodeError} {rest : List HostEvent} (hr : Ready s)
    (hp : s.pending = memWrite .cmd c :: rest) (hc : decode c = .error x) :
    step s = .next { s with err := 1, sticky := true, pending := rest, response := .written } := by
  rw [step_of_pending hr hp, performEvent_memWrite_cmd, execute_of_error hc]

theorem step_of_memRead {s : State} {r : WindowReg} {v : Word} {rest : List HostEvent} (hr : Ready s)
    (hp : s.pending = memRead r :: rest) (hv : readReg r s = some v) :
    step s = .next { s with pending := rest, response := .data v } := by
  rw [step_of_pending hr hp, performEvent_memRead hv]

theorem step_of_memWrite_arg {s : State} {v : Word} {rest : List HostEvent} (hr : Ready s)
    (hp : s.pending = memWrite .arg v :: rest) :
    step s = .next { s with arg := v, pending := rest, response := .written } := by
  rw [step_of_pending hr hp, performEvent_memWrite_arg]

theorem step_of_rejected {s : State} {off n : Nat} {kind : AccessKind} {rest : List HostEvent} (hr : Ready s)
    (hp : s.pending = .access off n kind :: rest) (hrej : Rejected off n kind) :
    step s = .next { s with pending := rest, response := .busError off } := by
  rw [step_of_pending hr hp, performEvent_rejected hrej]

theorem step_of_reset {s : State} {rest : List HostEvent} (hr : Ready s) (hp : s.pending = .reset :: rest) :
    step s = .next (s.resetWith rest) := by
  rw [step_of_pending hr hp, performEvent_reset]

/-- An event leaves the later ones pending, and never writes the parameters. -/
theorem performEvent_keeps {e : HostEvent} {rest : List HostEvent} {s t : State}
    (h : performEvent e rest s = .next t) : t.pending = rest ∧ t.params = s.params := by
  rcases performEvent_cases h with ⟨-, rfl⟩ | ⟨-, _, _, _, -, -, rfl⟩ | ⟨-, _, _, -, -, rfl⟩ | ⟨-, _, -, rfl⟩ |
    ⟨c, -, -, hexec⟩
  · exact ⟨rfl, rfl⟩
  · exact ⟨rfl, rfl⟩
  · exact ⟨rfl, rfl⟩
  · exact ⟨rfl, rfl⟩
  · rcases execute_cases hexec with ⟨i, -, hi⟩ | ⟨x, -, rfl⟩
    · obtain ⟨-, hparams, hpending, -⟩ := exec_keeps hi
      exact ⟨hpending, hparams⟩
    · exact ⟨rfl, rfl⟩

/-! ### The obligations on single steps -/

/-- Settles O7. -/
theorem stepRunsTheDecodedCommand : Obligations.StepRunsTheDecodedCommand :=
  fun _ _ _ _ hr hp hc => step_of_command hr hp hc

/-- Settles O8: a word that decoded would match a row of the opcode map. -/
theorem illegalWordRaisesIllegal : Obligations.IllegalWordRaisesIllegal := by
  intro s c rest hr hp hrows
  cases hc : decode c with
  | error x => exact step_of_illegal hr hp hc
  | ok i =>
    obtain ⟨r, hmem, -, hop⟩ := exists_row_of_decode_ok hc
    have hmatch := and_mask_eq_pattern_of_decode_ok hmem hc hop
    exact absurd (hrows r hmem) (by simp [OpcodeRow.matches, hmatch])

/-- Settles O9: the eight words of the window, read and written. -/
theorem legalAccessesDoWhatTheMapSays : Obligations.LegalAccessesDoWhatTheMapSays := by
  intro s off kind rest hr hmod hle hp
  have hoff : off = 0x00 ∨ off = 0x04 ∨ off = 0x08 ∨ off = 0x0C ∨ off = 0x10 ∨ off = 0x14 ∨ off = 0x18 ∨ off = 0x1C := by
    omega
  rw [step_of_pending hr hp]
  rcases hoff with rfl | rfl | rfl | rfl | rfl | rfl | rfl | rfl
  all_goals cases kind <;> rfl

/-- Each cause of a bus error is an access the window does not perform. -/
theorem rejected_of_cause {off n : Nat} {kind : AccessKind}
    (h : n ≠ 4 ∨ off % 4 ≠ 0 ∨ 0x1F < off ∨ off = 0x1C ∨ (off = 0x00 ∧ kind = .read) ∨
      (∃ v, kind = .write v ∧ (off = 0x08 ∨ off = 0x0C ∨ off = 0x10 ∨ off = 0x14 ∨ off = 0x18))) :
    Rejected off n kind := by
  have hmisaligned (ha : accessAligned off n ≠ true) : Rejected off n kind := by
    cases kind <;> exact fun ha' => absurd ha' ha
  have hread (hcmd : ∀ r, regAt off = some r → r = .cmd) (hk : kind = .read) : Rejected off n kind := by
    subst hk; exact fun _ => hcmd
  have hwrite {v : Word} (hro : ∀ r, regAt off = some r → r ≠ .cmd ∧ r ≠ .arg) (hk : kind = .write v) :
      Rejected off n kind := by
    subst hk; exact fun _ => hro
  rw [Ne, accessAligned_eq_true] at hmisaligned
  rcases h with h | h | h | rfl | ⟨rfl, hk⟩ | ⟨v, hk, h⟩
  · exact hmisaligned fun ⟨hn, _, _⟩ => h hn
  · exact hmisaligned fun ⟨_, hmod, _⟩ => h hmod
  · exact hmisaligned fun ⟨_, _, hle⟩ => absurd hle (by omega)
  · cases kind with
    | read => exact hread (by rintro r ⟨⟩) rfl
    | write v => exact hwrite (by rintro r ⟨⟩) rfl
  · exact hread (by rintro r ⟨⟩; rfl) hk
  · refine hwrite ?_ hk
    rcases h with rfl | rfl | rfl | rfl | rfl <;> rintro r ⟨⟩ <;> simp

/-- Settles O10. -/
theorem busErrorsChangeNothing : Obligations.BusErrorsChangeNothing :=
  fun _ _ _ _ _ hr hp hcause => step_of_rejected hr hp (rejected_of_cause hcause)

/-- A read, legal or not, changes the model's view of the host alone. -/
theorem step_of_read {s : State} {off n : Nat} {rest : List HostEvent} (hr : Ready s)
    (hp : s.pending = .access off n .read :: rest) :
    ∃ r, step s = .next { s with pending := rest, response := r } := by
  by_cases hrej : Rejected off n .read
  · exact ⟨_, step_of_rejected hr hp hrej⟩
  · simp only [Rejected, Classical.not_imp, not_forall] at hrej
    obtain ⟨ha, reg, hreg, hne⟩ := hrej
    obtain ⟨rfl, -⟩ := accessAligned_eq_true.1 ha
    obtain rfl := regOffset_of_regAt hreg
    obtain ⟨v, hv⟩ := exists_readReg hne s
    exact ⟨_, step_of_memRead hr hp hv⟩

/-- Settles O11: the second read sees the registers the first one left as they were. -/
theorem readsHaveNoSideEffects : Obligations.ReadsHaveNoSideEffects := by
  constructor
  · intro s off n rest hr hp
    obtain ⟨r, h⟩ := step_of_read hr hp
    exact ⟨_, h, rfl, rfl⟩
  · intro s r rest hr hne hp
    obtain ⟨v, hv⟩ := exists_readReg hne s
    have hfirst := step_of_memRead hr hp hv
    have hready : Ready { s with pending := memRead r :: rest, response := .data v } := hr
    exact ⟨_, _, v, hfirst, rfl, step_of_memRead hready rfl ((readReg_congr_block rfl r).trans hv), rfl, rfl⟩

/-- Settles O16. -/
theorem eachStepTakesOneHostEvent : Obligations.EachStepTakesOneHostEvent := by
  intro s t h
  obtain ⟨-, ⟨hp, rfl⟩ | ⟨e, rest, hp, hperform⟩⟩ := step_cases h
  · rw [hp, List.tail_nil]
  · rw [hp, List.tail_cons, (performEvent_keeps hperform).1]

/-- Settles O17. -/
theorem idleStepChangesNothing : Obligations.IdleStepChangesNothing := fun _ => step_of_idle

/-- Settles O19: the registers of the state the reset answers, STATUS from its four fields. -/
theorem resetWritesEveryRegister : Obligations.ResetWritesEveryRegister :=
  fun _ _ hr hp => ⟨_, step_of_reset hr hp, rfl, rfl, rfl, rfl, rfl, rfl, rfl, rfl,
    State.status_eq_zero rfl rfl rfl rfl, rfl, rfl⟩

/-- Settles O47. -/
theorem reservedErrCodeFaults : Obligations.ReservedErrCodeFaults := by
  intro s hwf herr
  have hcode : ¬ s.err.toNat ≤ 2 := by omega
  simp only [step, performNext, hwf, if_true, hcode, if_false]

/-! ### Views of the registers -/

/-- The registers lie at the multiples of four below 0x1C (R41). -/
theorem regOffset_mod_four (r : WindowReg) : regOffset r % 4 = 0 := by
  cases r <;> rfl

theorem regOffset_le (r : WindowReg) : regOffset r ≤ 0x18 := by
  cases r <;> decide

/-- The byte at offset `i` of a register is its lane `i` (R48). -/
theorem windowByte_regOffset_add (s : State) (r : WindowReg) {i : Nat} (hi : i < 4) :
    windowByte s (regOffset r + i) = (readReg r s).map (fun w => byteLane w i) := by
  have hmod := regOffset_mod_four r
  have hlane : (regOffset r + i) % 4 = i := by omega
  rw [windowByte, hlane, Nat.add_sub_cancel, regAt_regOffset, Option.bind_some]

/-- Settles O14: the address lies in the window, and its offset is a byte of the register. -/
theorem windowBytesAreLittleEndian : Obligations.WindowBytesAreLittleEndian := by
  intro s r i hi
  have hle := regOffset_le r
  rw [hostByte, if_pos (by omega), Nat.add_assoc, Nat.add_sub_cancel_left, windowByte_regOffset_add s r hi]
  rfl

/-- STATUS as a number: its fields at their places (10_state.md R31). -/
theorem status_toNat (s : State) :
    s.status.toNat = s.sticky.toNat * 2 ^ 8 + s.flen.toNat * 2 ^ 4 + s.ckne.toNat * 2 ^ 3 + s.err.toNat := by
  simp only [State.status, flagBit, append_toNat, BitVec.toNat_ofBool, BitVec.toNat_ofNat]
  omega

/-- A bit of a word, by its weight. -/
theorem getLsbD_of_weight {w : Word} {k : Nat} {b : Bool} (h : w.toNat / 2 ^ k % 2 = b.toNat) : w.getLsbD k = b := by
  rw [← BitVec.testBit_toNat, Nat.testBit_eq_decide_div_mod_eq, h]
  cases b <;> rfl

/-- Settles O15: each field is read back from the sum. -/
theorem statusShowsItsFields : Obligations.StatusShowsItsFields := by
  intro s
  have hsum := status_toNat s
  have hsticky := s.sticky.toNat_lt
  have hckne := s.ckne.toNat_lt
  exact ⟨field_eq (by omega), getLsbD_of_weight (by omega), field_eq (by omega), getLsbD_of_weight (by omega),
    field_eq_zero (by omega)⟩

end Sys2Proof.Machine
end

section
/-! What a command, an event and a step can do to the registers, said once (60_exceptions.md R122, R123;
70_reset_and_hazards.md section 3), when they complete, and the obligations that ask which registers a step or a run can
change. -/

namespace Sys2Proof.Machine

/-! ### Commands -/

/-- The "write position" packet as 95_test_vectors.md W5 lists it is the one ENC_MOVE builds. -/
theorem wirePacket_encMove (sid : BitVec 8) (pos : BitVec 16) :
    wirePacket (.encMove sid pos) = some (buildPacket sid 0x03 [0x2A, posLow pos, posHigh pos]) := by
  have hlow : BitVec.ofNat 8 (pos.toNat % 256) = posLow pos :=
    BitVec.eq_of_toNat_eq (by rw [posLow_toNat, BitVec.toNat_ofNat]; omega)
  have hhigh : BitVec.ofNat 8 (pos.toNat / 256) = posHigh pos :=
    BitVec.eq_of_toNat_eq (by rw [posHigh_toNat, BitVec.toNat_ofNat]; omega)
  have hck : BitVec.ofNat 8 (255 - (sid.toNat + 0x32 + pos.toNat % 256 + pos.toNat / 256) % 256) =
      checksum sid [0x05, 0x03, 0x2A, posLow pos, posHigh pos] :=
    BitVec.eq_of_toNat_eq (by
      rw [checksum_writePosition_toNat, posLow_toNat, posHigh_toNat, BitVec.toNat_ofNat]; omega)
  rw [buildPacket_writePosition, wirePacket, hlow, hhigh, hck]

/-- The "read moving flag" packet as W5 lists it is the one ENC_READ_MOVING builds. -/
theorem wirePacket_encReadMoving (sid : BitVec 8) :
    wirePacket (.encReadMoving sid) = some (buildPacket sid 0x02 [0x42, 0x01]) := by
  have hck : BitVec.ofNat 8 (255 - (sid.toNat + 0x49) % 256) = checksum sid [0x04, 0x02, 0x42, 0x01] :=
    BitVec.eq_of_toNat_eq (by rw [checksum_readMoving_toNat, BitVec.toNat_ofNat]; omega)
  rw [buildPacket_readMoving, wirePacket, hck]

/-- A packet-building command has a packet, with two or three parameters. -/
theorem exists_wirePacket {i : Instr} (h : buildsPacket i = true) :
    ∃ sid code ps, wirePacket i = some (buildPacket sid code ps) ∧ (ps.length = 2 ∨ ps.length = 3) := by
  cases i with
  | encMove sid pos => exact ⟨_, _, _, wirePacket_encMove sid pos, .inr rfl⟩
  | encReadMoving sid => exact ⟨_, _, _, wirePacket_encReadMoving sid, .inl rfl⟩
  | ckInit | ckByte | ckFinal | mapA2p | mapP2a => cases h

/-- The packet-building commands are those that have a packet. -/
theorem buildsPacket_eq_isSome (i : Instr) : buildsPacket i = (wirePacket i).isSome := by
  cases i <;> rfl

theorem wirePacket_eq_none {i : Instr} (h : buildsPacket i = false) : wirePacket i = none :=
  Option.isSome_eq_false_iff.1 (buildsPacket_eq_isSome i ▸ h) |> Option.isNone_iff_eq_none.1

theorem wirePacket_eq_none_of_producesResult {i : Instr} (h : producesResult i = true) : wirePacket i = none := by
  cases i with
  | ckFinal | mapA2p | mapP2a => rfl
  | encMove | encReadMoving | ckInit | ckByte => cases h

/-- The packet of a packet-building command is the general packet. -/
theorem wirePacket_eq_buildPacket {i : Instr} {p : List Byte} (h : wirePacket i = some p) :
    ∃ sid code ps, p = buildPacket sid code ps ∧ (ps.length = 2 ∨ ps.length = 3) := by
  obtain ⟨sid, code, ps, hp, hlen⟩ := exists_wirePacket (by rw [buildsPacket_eq_isSome, h]; rfl)
  exact ⟨sid, code, ps, Option.some.inj (h.symm.trans hp), hlen⟩

/-- A packet-building command loads its packet and succeeds. -/
theorem exec_of_wirePacket {i : Instr} {p : List Byte} (h : wirePacket i = some p) (s : State) :
    exec i s = .next (s.loadPacket p).succeed := by
  cases i with
  | encMove sid pos =>
    cases (wirePacket_encMove sid pos).symm.trans h
    rfl
  | encReadMoving sid =>
    cases (wirePacket_encReadMoving sid).symm.trans h
    rfl
  | ckInit | ckByte | ckFinal | mapA2p | mapP2a => cases h

/-- CK_FINAL finds no byte added: the one way a command fails (60_exceptions.md R124). -/
def IsEmptyFinal (i : Instr) (s : State) : Prop := i = .ckFinal ∧ s.ckne = false

theorem not_isEmptyFinal_of_ne {i : Instr} (h : i ≠ .ckFinal) (s : State) : ¬ IsEmptyFinal i s := fun hs => h hs.1

theorem not_isEmptyFinal_of_ckne (i : Instr) {s : State} (h : s.ckne = true) : ¬ IsEmptyFinal i s :=
  fun hs => Bool.false_ne_true (hs.2.symm.trans h)

/-- What a command can do: load its packet, start or extend the sum, deliver a result, or raise EMPTY. -/
inductive CommandEffect (i : Instr) (s : State) : State → Prop
  | packet (p : List Byte) (hi : wirePacket i = some p) : CommandEffect i s (s.loadPacket p).succeed
  | init (hi : i = .ckInit) : CommandEffect i s (s.setSum 0 false).succeed
  | byte (b : Byte) (hi : i = .ckByte b) : CommandEffect i s (s.setSum (s.acc + b) true).succeed
  | result (v : Word) (hi : producesResult i = true) (hs : ¬ IsEmptyFinal i s) :
      CommandEffect i s (s.setResult v).succeed
  | empty (h : IsEmptyFinal i s) : CommandEffect i s (s.raise errEmpty)

/-- The result effect, with the state it answers as an update. -/
theorem CommandEffect.of_result {i : Instr} {s : State} (v : Word) (hi : producesResult i = true)
    (hs : ¬ IsEmptyFinal i s) : CommandEffect i s { s with result := v, err := 0 } := .result v hi hs

/-- Under accepted parameters every command completes, with one of the effects. -/
theorem exec_completes (i : Instr) {s : State} (h : s.params.wellFormed = true) :
    ∃ t, exec i s = .next t ∧ CommandEffect i s t := by
  cases i with
  | encMove sid pos =>
    have hp := wirePacket_encMove sid pos
    exact ⟨_, exec_of_wirePacket hp s, .packet _ hp⟩
  | encReadMoving sid =>
    have hp := wirePacket_encReadMoving sid
    exact ⟨_, exec_of_wirePacket hp s, .packet _ hp⟩
  | ckInit => exact ⟨_, rfl, .init rfl⟩
  | ckByte b => exact ⟨_, rfl, .byte b rfl⟩
  | ckFinal =>
    cases hne : s.ckne with
    | true => exact ⟨_, exec_ckFinal_of_ckne hne, .of_result _ rfl (not_isEmptyFinal_of_ckne .ckFinal hne)⟩
    | false => exact ⟨_, exec_ckFinal_of_not_ckne hne, .empty ⟨rfl, hne⟩⟩
  | mapA2p j => exact ⟨_, exec_mapA2p h j, .of_result _ rfl (not_isEmptyFinal_of_ne (i := .mapA2p j) nofun s)⟩
  | mapP2a j p => exact ⟨_, exec_mapP2a h j p, .of_result _ rfl (not_isEmptyFinal_of_ne (i := .mapP2a j p) nofun s)⟩

/-- A command that answers a next state under accepted parameters has one of the effects. -/
theorem exec_effect {i : Instr} {s t : State} (hexec : exec i s = .next t) (h : s.params.wellFormed = true) :
    CommandEffect i s t := by
  obtain ⟨u, hu, heffect⟩ := exec_completes i h
  cases hu.symm.trans hexec
  exact heffect

/-- A command fails with EMPTY, or succeeds and leaves STICKY (60_exceptions.md R122, R123). -/
theorem CommandEffect.outcome {i : Instr} {s t : State} (h : CommandEffect i s t) :
    (IsEmptyFinal i s ∧ t = s.raise errEmpty) ∨ (¬ IsEmptyFinal i s ∧ t.err = 0 ∧ t.sticky = s.sticky) := by
  cases h with
  | packet p hi => exact .inr ⟨not_isEmptyFinal_of_ne (by rintro rfl; cases hi) s, rfl, rfl⟩
  | init hi => exact .inr ⟨not_isEmptyFinal_of_ne (by simp [hi]) s, rfl, rfl⟩
  | byte b hi => exact .inr ⟨not_isEmptyFinal_of_ne (by simp [hi]) s, rfl, rfl⟩
  | result v hi hs => exact .inr ⟨hs, rfl, rfl⟩
  | empty hs => exact .inl ⟨hs, rfl⟩

theorem CommandEffect.err_le {i : Instr} {s t : State} (h : CommandEffect i s t) : t.err.toNat ≤ 2 := by
  rcases h.outcome with ⟨-, rfl⟩ | ⟨-, herr, -⟩
  · exact (by decide : errEmpty.toNat ≤ 2)
  · rw [herr]; decide

theorem CommandEffect.frame_eq {i : Instr} {s t : State} (h : CommandEffect i s t) (hi : wirePacket i = none) :
    t.frame = s.frame ∧ t.flen = s.flen := by
  cases h with
  | packet p hp => rw [hi] at hp; cases hp
  | init | byte | result | empty => exact ⟨rfl, rfl⟩

theorem CommandEffect.eq_loadPacket {i : Instr} {s t : State} {p : List Byte} (h : CommandEffect i s t)
    (hi : wirePacket i = some p) : t = (s.loadPacket p).succeed := by
  cases h with
  | packet q hq => cases hq.symm.trans hi; rfl
  | init h => subst h; cases hi
  | byte b h => subst h; cases hi
  | result v hres _ => rw [wirePacket_eq_none_of_producesResult hres] at hi; cases hi
  | empty h => rw [h.1] at hi; cases hi

theorem CommandEffect.arg_eq {i : Instr} {s t : State} (h : CommandEffect i s t) : t.arg = s.arg := by
  cases h <;> rfl

theorem CommandEffect.result_eq {i : Instr} {s t : State} (h : CommandEffect i s t)
    (hi : producesResult i = false ∨ IsEmptyFinal i s) : t.result = s.result := by
  cases h with
  | result v hres hs =>
    rcases hi with hi | hi
    · rw [hi] at hres; cases hres
    · exact absurd hi hs
  | packet | init | byte | empty => rfl

theorem CommandEffect.sum_eq {i : Instr} {s t : State} (h : CommandEffect i s t) (hi : feedsSum i = false) :
    t.acc = s.acc ∧ t.ckne = s.ckne := by
  cases h with
  | init h => subst h; cases hi
  | byte b h => subst h; cases hi
  | packet | result | empty => exact ⟨rfl, rfl⟩

theorem CommandEffect.eq_of_ckInit {s t : State} (h : CommandEffect .ckInit s t) : t = (s.setSum 0 false).succeed := by
  cases h with
  | init => rfl
  | packet p hi => cases hi
  | byte b hi => cases hi
  | result v hi => cases hi
  | empty h => cases h.1

theorem CommandEffect.eq_of_ckByte {b : Byte} {s t : State} (h : CommandEffect (.ckByte b) s t) :
    t = (s.setSum (s.acc + b) true).succeed := by
  cases h with
  | byte b' hi => cases hi; rfl
  | packet p hi => cases hi
  | init hi => cases hi
  | result v hi => cases hi
  | empty h => cases h.1

/-- The two commands that write ACC and CKNE. -/
theorem feedsSum_cases {i : Instr} (h : feedsSum i = true) : i = .ckInit ∨ ∃ b, i = .ckByte b := by
  cases i with
  | ckInit => exact .inl rfl
  | ckByte b => exact .inr ⟨b, rfl⟩
  | encMove | encReadMoving | ckFinal | mapA2p | mapP2a => cases h

/-- Settles O48: the outcome of the command's effect. -/
theorem everyCommandSucceedsButEmptyCkFinal : Obligations.EveryCommandSucceedsButEmptyCkFinal := by
  intro i s h
  obtain ⟨t, hexec, heffect⟩ := exec_completes i h
  refine ⟨t, hexec, ?_⟩
  rcases heffect.outcome with ⟨⟨hi, hne⟩, ht⟩ | ⟨hnot, herr, hsticky⟩
  · exact .inl ⟨hi, hne, ht⟩
  · exact .inr ⟨hnot, herr, hsticky⟩

/-! ### Events and steps -/

/-- What an event can do: reset, no command (only ARG among the registers may change), ILLEGAL, or its command. -/
inductive EventEffect (e : HostEvent) (rest : List HostEvent) (s : State) : State → Prop
  | reset (he : e = .reset) : EventEffect e rest s (s.resetWith rest)
  | access (a : Word) (r : Response) (he : e ≠ .reset) (hword : cmdWord e = none)
      (ha : (∀ v, e ≠ memWrite .arg v) → a = s.arg) :
      EventEffect e rest s { s with arg := a, pending := rest, response := r }
  | illegal (c : Word) (x : DecodeError) (he : e = memWrite .cmd c) (hc : decode c = .error x) :
      EventEffect e rest s { s with err := 1, sticky := true, pending := rest, response := .written }
  | command (c : Word) (i : Instr) (t : State) (he : e = memWrite .cmd c) (hc : decode c = .ok i)
      (ht : CommandEffect i { s with pending := rest, response := .written } t) : EventEffect e rest s t

/-- Under accepted parameters every event is performed, with one of the effects. -/
theorem performEvent_completes (e : HostEvent) (rest : List HostEvent) {s : State} (h : s.params.wellFormed = true) :
    ∃ t, performEvent e rest s = .next t ∧ EventEffect e rest s t := by
  cases eventKind e with
  | reset => exact ⟨_, performEvent_reset rest s, .reset rfl⟩
  | read r hne =>
    obtain ⟨v, hv⟩ := exists_readReg hne s
    exact ⟨_, performEvent_memRead hv rest, .access s.arg _ nofun (cmdWord_memRead r) fun _ => rfl⟩
  | writeArg v =>
    exact ⟨_, performEvent_memWrite_arg v rest s,
      .access v _ nofun (cmdWord_memWrite_arg v) fun hne => absurd rfl (hne v)⟩
  | writeCmd c =>
    rw [performEvent_memWrite_cmd]
    cases hc : decode c with
    | error x => exact ⟨_, execute_of_error hc _, .illegal c x rfl hc⟩
    | ok i =>
      obtain ⟨t, hexec, heffect⟩ := exec_completes i (s := { s with pending := rest, response := .written }) h
      exact ⟨t, (execute_of_ok hc _).trans hexec, .command c i t rfl hc heffect⟩
  | rejected off n kind hrej =>
    exact ⟨_, performEvent_rejected hrej rest s, .access s.arg _ nofun hrej.cmdWord_eq_none fun _ => rfl⟩

/-- ERR stays a legal code (10_state.md R29, R31). -/
theorem EventEffect.err_le {e : HostEvent} {rest : List HostEvent} {s t : State} (h : EventEffect e rest s t)
    (hs : s.err.toNat ≤ 2) : t.err.toNat ≤ 2 := by
  cases h with
  | reset => exact Nat.zero_le 2
  | access => exact hs
  | illegal => exact Nat.le_succ 1
  | command c i t he hc ht => exact ht.err_le

/-- A step from a ready state performs the oldest event and answers a ready state. -/
theorem step_completes {s : State} {e : HostEvent} {rest : List HostEvent} (hr : Ready s)
    (hp : s.pending = e :: rest) :
    ∃ t, step s = .next t ∧ EventEffect e rest s t ∧ Ready t ∧ t.pending = rest := by
  obtain ⟨t, hperform, heffect⟩ := performEvent_completes e rest hr.1
  obtain ⟨hpending, hparams⟩ := performEvent_keeps hperform
  exact ⟨t, (step_of_pending hr hp).trans hperform, heffect, ⟨hparams ▸ hr.1, heffect.err_le hr.2⟩, hpending⟩

/-- A step that answers a next state did nothing, or has the effect of the oldest event. -/
theorem step_effect {s t : State} (h : step s = .next t) :
    (s.pending = [] ∧ t = s) ∨ ∃ e rest, s.pending = e :: rest ∧ EventEffect e rest s t := by
  obtain ⟨hr, hidle | ⟨e, rest, hp, hperform⟩⟩ := step_cases h
  · exact .inl hidle
  · obtain ⟨u, hu, heffect⟩ := performEvent_completes e rest hr.1
    cases hu.symm.trans hperform
    exact .inr ⟨e, rest, hp, heffect⟩

theorem step_params {s t : State} (h : step s = .next t) : t.params = s.params := by
  obtain ⟨-, ⟨-, rfl⟩ | ⟨e, rest, -, hperform⟩⟩ := step_cases h
  · rfl
  · exact (performEvent_keeps hperform).2

theorem step_pending {s t : State} (h : step s = .next t) : t.pending = s.pending.tail :=
  eachStepTakesOneHostEvent s t h

/-- The command of the next step, where the oldest event writes a word to CMD. -/
theorem nextCommand_of_cmd {s : State} {c : Word} {i : Instr} {rest : List HostEvent}
    (hp : s.pending = memWrite .cmd c :: rest) (hc : decode c = .ok i) : s.nextCommand = some i := by
  rw [State.nextCommand, hp]
  exact eventCommand_memWrite_cmd_of_ok hc

/-- Settles O49: ERR by the effect of the event. -/
theorem errIsWrittenByCommandsOnly : Obligations.ErrIsWrittenByCommandsOnly := by
  intro s t e rest hp h
  rcases step_effect h with ⟨hempty, -⟩ | ⟨e', rest', hp', heffect⟩
  · rw [hempty] at hp; cases hp
  cases hp.symm.trans hp'
  cases heffect with
  | reset he => subst he; exact ⟨fun _ hword => (nomatch hword), fun _ hne => absurd rfl hne, fun _ => rfl⟩
  | access a r he hword ha =>
    exact ⟨fun c hc => absurd (hword.symm.trans hc) (by simp), fun _ _ => rfl, fun hreset => absurd hreset he⟩
  | illegal c x he hc =>
    subst he
    refine ⟨fun c' hc' => ?_, fun hnone => (nomatch hnone), fun hreset => (nomatch hreset)⟩
    cases hc'
    exact .inr (.inl ⟨rfl, x, hc⟩)
  | command c i t he hc ht =>
    subst he
    refine ⟨fun c' hc' => ?_, fun hnone => (nomatch hnone), fun hreset => (nomatch hreset)⟩
    cases hc'
    rcases ht.outcome with ⟨⟨rfl, hne⟩, rfl⟩ | ⟨-, herr, -⟩
    · exact .inr (.inr ⟨rfl, hc, hne⟩)
    · exact .inl ⟨herr, i, hc⟩

/-- Settles O51: the registers a command's effect leaves alone; the other events write none of them but in reset. -/
theorem eachRegisterChangesOnlyByItsCommands : Obligations.EachRegisterChangesOnlyByItsCommands := by
  intro s t h hreset
  rcases step_effect h with ⟨-, rfl⟩ | ⟨e, rest, hp, heffect⟩
  · exact ⟨fun _ => ⟨rfl, rfl⟩, fun _ => rfl, fun _ => ⟨rfl, rfl⟩⟩
  cases heffect with
  | reset he => rw [hp, he] at hreset; exact absurd rfl hreset
  | access | illegal => exact ⟨fun _ => ⟨rfl, rfl⟩, fun _ => rfl, fun _ => ⟨rfl, rfl⟩⟩
  | command c i t he hc ht =>
    subst he
    have hnext := nextCommand_of_cmd hp hc
    exact ⟨fun hi => ht.frame_eq (wirePacket_eq_none (hi i hnext)), fun hi => ht.result_eq (hi i hnext), fun hi => ht.sum_eq (hi i hnext)⟩

/-! ### Runs -/

/-- What every step keeps, every run keeps. -/
theorem runSteps_keeps {P : State → Prop} (hstep : ∀ s t, P s → step s = .next t → P t) {n : Nat} {s t : State}
    (hs : P s) (h : runSteps n s = .next t) : P t := by
  induction n generalizing s with
  | zero => cases h; exact hs
  | succ n ih =>
    obtain ⟨u, hu, hrun⟩ := runSteps_succ_cases h
    exact ih (hstep s u hs hu) hrun

/-- Settles O52. -/
theorem parametersNeverChange : Obligations.ParametersNeverChange := by
  intro n s t h
  exact runSteps_keeps (P := fun u => u.params = s.params) (fun _ _ hu hstep => (step_params hstep).trans hu) rfl h

/-- A run of `k` steps begins every longer one. -/
theorem runSteps_split {k n : Nat} {s t u : State} (hk : k ≤ n) (hu : runSteps k s = .next u)
    (ht : runSteps n s = .next t) : runSteps (n - k) u = .next t := by
  induction k generalizing n s with
  | zero => cases hu; exact ht
  | succ k ih =>
    obtain ⟨m, rfl⟩ := Nat.exists_eq_add_of_le' hk
    obtain ⟨v, hv, hu⟩ := runSteps_succ_cases hu
    rw [show m + (k + 1) = (m + k) + 1 from rfl, runSteps_succ_next hv] at ht
    rw [Nat.add_sub_cancel, ← Nat.add_sub_cancel (n := m) (m := k)]
    exact ih (Nat.le_add_left k m) hu ht

/-- No reset among the pending events (70_reset_and_hazards.md R141). -/
def NoReset (s : State) : Prop := ∀ e ∈ s.pending, e ≠ .reset

theorem NoReset.step {s t : State} (h : NoReset s) (hstep : step s = .next t) : NoReset t := by
  intro e he
  rw [step_pending hstep] at he
  exact h e (List.mem_of_mem_tail he)

theorem NoReset.run {n : Nat} {s t : State} (h : NoReset s) (hrun : runSteps n s = .next t) : NoReset t :=
  runSteps_keeps (fun _ _ => NoReset.step) h hrun

/-- Without a reset a step keeps a set STICKY, and one that leaves STICKY clear leaves a clear ERR clear (10_state.md
R30, 60_exceptions.md R123). -/
theorem step_sticky {s t : State} (hs : NoReset s) (h : step s = .next t) :
    (s.sticky = true → t.sticky = true) ∧ (t.sticky = false → s.err = 0 → t.err = 0) := by
  rcases step_effect h with ⟨-, rfl⟩ | ⟨e, rest, hp, heffect⟩
  · exact ⟨id, fun _ => id⟩
  cases heffect with
  | reset he => exact absurd he (hs e (hp ▸ List.mem_cons_self))
  | access => exact ⟨id, fun _ => id⟩
  | illegal => exact ⟨fun _ => rfl, fun hclear => (nomatch hclear)⟩
  | command c i t he hc ht =>
    rcases ht.outcome with ⟨-, rfl⟩ | ⟨-, herr, hsticky⟩
    · exact ⟨fun _ => rfl, fun hclear => (nomatch hclear)⟩
    · exact ⟨fun hset => hsticky.trans hset, fun _ _ => herr⟩

theorem runSteps_sticky {n : Nat} {s t : State} (hs : NoReset s) (h : runSteps n s = .next t)
    (hsticky : s.sticky = true) : t.sticky = true :=
  (runSteps_keeps (P := fun u => NoReset u ∧ u.sticky = true)
    (fun _ _ hu hstep => ⟨hu.1.step hstep, (step_sticky hu.1 hstep).1 hu.2⟩) ⟨hs, hsticky⟩ h).2

theorem runSteps_sticky_clear {n : Nat} {s t : State} (hs : NoReset s) (h : runSteps n s = .next t)
    (hclear : t.sticky = false) : s.sticky = false :=
  Bool.eq_false_iff.2 fun hset => by simp [runSteps_sticky hs h hset] at hclear

theorem runSteps_err_clear {n : Nat} {s t : State} (hs : NoReset s) (h : runSteps n s = .next t)
    (hclear : t.sticky = false) (herr : s.err = 0) : t.err = 0 := by
  induction n generalizing s with
  | zero => cases h; exact herr
  | succ n ih =>
    obtain ⟨u, hu, hrun⟩ := runSteps_succ_cases h
    have hu_noReset := hs.step hu
    exact ih hu_noReset hrun ((step_sticky hs hu).2 (runSteps_sticky_clear hu_noReset hrun hclear) herr)

/-- Settles O50: each state of the run lies on a run to its end. -/
theorem stickyHoldsUntilReset : Obligations.StickyHoldsUntilReset := by
  intro n s t hs h
  refine ⟨runSteps_sticky hs h, fun hclear k u hk hu => ?_⟩
  have hu_clear := runSteps_sticky_clear (NoReset.run hs hu) (runSteps_split hk hu h) hclear
  exact ⟨hu_clear, runSteps_err_clear hs hu hu_clear⟩

end Sys2Proof.Machine
end

section
/-! Noninterference: no command but CK_FINAL lets ACC out (10_state.md R27), and no command reads the servo ids of the
LUT (41_joint_mapper.md R110). -/

namespace Sys2Proof.Machine

/-! ### ACC -/

/-- A command but CK_FINAL does the same to everything but ACC, whatever ACC holds. -/
theorem exec_withAcc {i : Instr} {s t : State} (a : Byte) (hi : i ≠ .ckFinal) (h : exec i s = .next t) :
    ∃ b, exec i { s with acc := a } = .next { t with acc := b } := by
  cases i with
  | encMove | encReadMoving => cases h; exact ⟨a, rfl⟩
  | ckInit => cases h; exact ⟨0, rfl⟩
  | ckByte b => cases h; exact ⟨a + b, rfl⟩
  | ckFinal => exact absurd rfl hi
  | mapA2p j =>
    obtain ⟨hwf, rfl⟩ := whenWellFormed_next h
    exact ⟨a, exec_mapA2p (s := { s with acc := a }) hwf j⟩
  | mapP2a j p =>
    obtain ⟨hwf, rfl⟩ := whenWellFormed_next h
    exact ⟨a, exec_mapP2a (s := { s with acc := a }) hwf j p⟩

/-- No read of a register shows ACC. -/
theorem readReg_withAcc (r : WindowReg) (s : State) (a : Byte) : readReg r { s with acc := a } = readReg r s := by
  cases r <;> rfl

/-- An event that performs no CK_FINAL does the same to everything but ACC, the answer to the host included. -/
theorem performEvent_withAcc {e : HostEvent} {rest : List HostEvent} {s t : State} (a : Byte)
    (he : eventCommand e ≠ some .ckFinal) (h : performEvent e rest s = .next t) :
    ∃ b, performEvent e rest { s with acc := a } = .next { t with acc := b } := by
  cases eventKind e with
  | reset => cases h; exact ⟨0, rfl⟩
  | read r hne =>
    obtain ⟨v, hv⟩ := exists_readReg hne s
    cases (performEvent_memRead hv rest).symm.trans h
    exact ⟨a, performEvent_memRead ((readReg_withAcc r s a).trans hv) rest⟩
  | writeArg v => cases h; exact ⟨a, rfl⟩
  | writeCmd c =>
    rw [performEvent_memWrite_cmd] at h ⊢
    rcases execute_cases h with ⟨i, hc, hexec⟩ | ⟨x, hc, rfl⟩
    · rw [execute_of_ok hc]
      exact exec_withAcc a (fun hi => he (hi ▸ eventCommand_memWrite_cmd_of_ok hc)) hexec
    · exact ⟨a, execute_of_error hc _⟩
  | rejected off n kind hrej =>
    cases (performEvent_rejected hrej rest s).symm.trans h
    exact ⟨a, performEvent_rejected hrej rest _⟩

theorem step_withAcc {s t : State} (a : Byte) (hs : ∀ e ∈ s.pending, eventCommand e ≠ some .ckFinal)
    (h : step s = .next t) : ∃ b, step { s with acc := a } = .next { t with acc := b } := by
  obtain ⟨hr, ⟨hp, rfl⟩ | ⟨e, rest, hp, hperform⟩⟩ := step_cases h
  · exact ⟨a, step_of_idle (s := { t with acc := a }) hr hp⟩
  · obtain ⟨b, hb⟩ := performEvent_withAcc a (hs e (hp ▸ List.mem_cons_self)) hperform
    exact ⟨b, (step_of_pending (s := { s with acc := a }) hr hp).trans hb⟩

/-- Settles O31: by induction on the number of steps, with the ACC of the second run left free. -/
theorem accIsHiddenButForCkFinal : Obligations.AccIsHiddenButForCkFinal := by
  intro n
  induction n with
  | zero =>
    intro s t a _ h
    cases h
    exact ⟨a, rfl⟩
  | succ n ih =>
    intro s t a hs h
    obtain ⟨u, hstep, hrun⟩ := runSteps_succ_cases h
    obtain ⟨b, hb⟩ := step_withAcc a hs hstep
    have hu : ∀ e ∈ u.pending, eventCommand e ≠ some .ckFinal := fun e he =>
      hs e (List.mem_of_mem_tail (step_pending hstep ▸ he))
    rw [runSteps_succ_next hb]
    exact ih u t b hu hrun

/-! ### The servo ids -/

theorem wellFormed_withServos (p : Params) (a b : Nat) : (withServos p a b).wellFormed = p.wellFormed := rfl

theorem a2pPosition_withServos (p : Params) (a b : Nat) (j : Joint) (x : Int) :
    a2pPosition (withServos p a b) (calEntry (withServos p a b).cal j) x = a2pPosition p (calEntry p.cal j) x := by
  cases j <;> rfl

theorem p2aAngle_withServos (p : Params) (a b : Nat) (j : Joint) (pos : Nat) :
    p2aAngle (withServos p a b) (calEntry (withServos p a b).cal j) pos = p2aAngle p (calEntry p.cal j) pos := by
  cases j <;> rfl

/-- Settles O43: the frame codec commands read no parameter, and the mapper commands read the same entry but for its
servo id. -/
theorem servoIdsOfTheLutAreNotRead : Obligations.ServoIdsOfTheLutAreNotRead := by
  intro i s t a b h
  cases i with
  | encMove | encReadMoving | ckInit | ckByte => cases h; rfl
  | ckFinal =>
    rcases Bool.eq_false_or_eq_true s.ckne with hne | hne
    · cases (exec_ckFinal_of_ckne hne).symm.trans h
      exact exec_ckFinal_of_ckne (s := { s with params := withServos s.params a b }) hne
    · cases (exec_ckFinal_of_not_ckne hne).symm.trans h
      exact exec_ckFinal_of_not_ckne (s := { s with params := withServos s.params a b }) hne
  | mapA2p j =>
    obtain ⟨hwf, rfl⟩ := whenWellFormed_next h
    have hexec := exec_mapA2p (s := { s with params := withServos s.params a b })
      ((wellFormed_withServos s.params a b).trans hwf) j
    rw [a2pPosition_withServos] at hexec
    exact hexec
  | mapP2a j p =>
    obtain ⟨hwf, rfl⟩ := whenWellFormed_next h
    have hexec := exec_mapP2a (s := { s with params := withServos s.params a b })
      ((wellFormed_withServos s.params a b).trans hwf) j p
    rw [p2aAngle_withServos] at hexec
    exact hexec

end Sys2Proof.Machine
end

section
/-! The invariants of the machine (10_state.md R25 to R31): FRAME holds the last packet built, ACC the sum of the bytes
fed, ERR a legal code. Each is kept by every step, so it holds along every run. -/

namespace Sys2Proof.Machine

/-! ### The packet in the frame buffer -/

/-- Loading a packet puts its bytes in the buffer, and zeros above them (R25). -/
theorem frame_ofPacket_getElem? (p : List Byte) {i : Nat} (hi : i < 9) :
    (Frame.ofPacket p).bytes[i]? = some (p.getD i 0) := by
  interval_cases i <;> rfl

theorem frame_ofPacket_bytes_take {p : List Byte} (hp : p.length ≤ 9) :
    (Frame.ofPacket p).bytes.take p.length = p := by
  refine List.ext_getElem? fun i => ?_
  rcases lt_or_ge i p.length with hi | hi
  · rw [List.getElem?_take_of_lt hi, frame_ofPacket_getElem? p (by omega), List.getD_eq_getElem _ _ hi,
      List.getElem?_eq_getElem hi]
  · rw [List.getElem?_take_eq_none hi, List.getElem?_eq_none hi]

/-- A packet that fits the buffer is the one the state holds once it is loaded. -/
theorem holdsPacket_loadPacket (s : State) {p : List Byte} (hp : p.length ≤ 9) : HoldsPacket (s.loadPacket p) p := by
  have hflen : (s.loadPacket p).flen.toNat = p.length := by
    rw [State.loadPacket_flen, BitVec.toNat_ofNat]; omega
  refine ⟨?_, hflen, fun i hi hle => ?_⟩
  · rw [State.packet, hflen, State.loadPacket_frame, frame_ofPacket_bytes_take hp]
  · rw [hflen] at hle
    rw [State.loadPacket_frame, frame_ofPacket_getElem? p hi, List.getD_eq_default _ _ hle]

/-- Whether the state holds a packet depends on FRAME and FLEN alone. -/
theorem HoldsPacket.congr {s t : State} {p : List Byte} (h : HoldsPacket s p) (hf : t.frame = s.frame)
    (hl : t.flen = s.flen) : HoldsPacket t p := by
  obtain ⟨hpacket, hlength, hzero⟩ := h
  exact ⟨(packet_congr hf hl).trans hpacket, hl ▸ hlength, by rw [hf, hl]; exact hzero⟩

@[simp] theorem buildPacket_length (sid code : Byte) (ps : List Byte) :
    (buildPacket sid code ps).length = ps.length + 6 := by
  simp only [buildPacket, List.length_append, List.length_cons, List.length_nil]
  omega

/-- The last byte of the general packet is the checksum of the servo id, the length, the code and the parameters. -/
theorem buildPacket_getLast? (sid code : Byte) (ps : List Byte) : (buildPacket sid code ps).getLast? =
    some (checksum sid ([BitVec.ofNat 8 (2 + ps.length), code] ++ ps)) :=
  List.getLast?_concat

/-- Between its header and its last byte stand the bytes the checksum covers (40_frame_codec.md R80). -/
theorem buildPacket_drop_dropLast (sid code : Byte) (ps : List Byte) : ((buildPacket sid code ps).drop 2).dropLast =
    sid :: ([BitVec.ofNat 8 (2 + ps.length), code] ++ ps) :=
  List.dropLast_concat (l₁ := sid :: ([BitVec.ofNat 8 (2 + ps.length), code] ++ ps))

/-- The invariants of the buffer hold of a state that holds a general packet of eight or nine bytes. -/
theorem frameInv_of_holdsPacket {s : State} {sid code : Byte} {ps : List Byte}
    (h : HoldsPacket s (buildPacket sid code ps)) (hlen : ps.length = 2 ∨ ps.length = 3) :
    FrameInv s ∧ LengthInv s := by
  obtain ⟨hpacket, hflen, hzero⟩ := h
  rw [buildPacket_length] at hflen
  have hbytes (k : Nat) (hk : k < 4) : (buildPacket sid code ps)[k]? = s.frame.bytes[k]? := by
    rw [← hpacket, State.packet, List.getElem?_take_of_lt (by omega)]
  have h0 : s.frame.b0 = 0xFF := (Option.some.inj (hbytes 0 (by omega))).symm
  have h1 : s.frame.b1 = 0xFF := (Option.some.inj (hbytes 1 (by omega))).symm
  have h3 : s.frame.b3 = BitVec.ofNat 8 (2 + ps.length) := (Option.some.inj (hbytes 3 (by omega))).symm
  have hcheck : checksumOf s.payload = s.packet.getLast? := by
    rw [State.payload, hpacket, buildPacket_drop_dropLast, checksumOf_cons, buildPacket_getLast?]
  have hflen_cases : s.flen = 8 ∨ s.flen = 9 := by
    rcases hlen with hlen | hlen <;> rw [hlen] at hflen
    · exact .inl (BitVec.eq_of_toNat_eq hflen)
    · exact .inr (BitVec.eq_of_toNat_eq hflen)
  refine ⟨⟨.inr hflen_cases, hzero, fun _ => ⟨h0, h1, hcheck⟩⟩, fun _ => ?_⟩
  rw [hflen, h3, BitVec.toNat_ofNat]
  omega

/-- Whether the invariants of the buffer hold depends on FRAME and FLEN alone. -/
theorem FrameInv.congr {s t : State} (h : FrameInv s ∧ LengthInv s) (hf : t.frame = s.frame) (hl : t.flen = s.flen) :
    FrameInv t ∧ LengthInv t := by
  obtain ⟨⟨hflen, hzero, hpacket⟩, hlength⟩ := h
  unfold FrameInv LengthInv
  rw [payload_congr hf hl, packet_congr hf hl, hf, hl]
  exact ⟨⟨hflen, hzero, hpacket⟩, hlength⟩

/-! ### The packet along the events -/

theorem memWrite_ne_reset (r : WindowReg) (v : Word) : memWrite r v ≠ .reset := nofun

theorem packetAfter_of_ne_reset {e : HostEvent} (h : e ≠ .reset) (p : List Byte) :
    packetAfter p e = ((eventCommand e).bind wirePacket).getD p := by
  cases e with
  | reset => exact absurd rfl h
  | access off n kind => rfl

theorem packetAfter_of_no_command {e : HostEvent} (h : e ≠ .reset) (hc : eventCommand e = none) (p : List Byte) :
    packetAfter p e = p := by
  rw [packetAfter_of_ne_reset h, hc]
  rfl

theorem packetAfter_of_command {e : HostEvent} {i : Instr} (h : e ≠ .reset) (hc : eventCommand e = some i)
    (p : List Byte) : packetAfter p e = (wirePacket i).getD p := by
  rw [packetAfter_of_ne_reset h, hc, Option.bind_some]

theorem wirePacket_length_le {i : Instr} {p : List Byte} (h : wirePacket i = some p) : p.length ≤ 9 := by
  obtain ⟨sid, code, ps, rfl, hlen⟩ := wirePacket_eq_buildPacket h
  rw [buildPacket_length]
  omega

/-- The state after an event holds the last packet after it. -/
theorem EventEffect.holdsPacket {e : HostEvent} {rest : List HostEvent} {s t : State} {p : List Byte}
    (h : EventEffect e rest s t) (hp : HoldsPacket s p) : HoldsPacket t (packetAfter p e) := by
  cases h with
  | reset he =>
    subst he
    exact ⟨rfl, rfl, fun _ hi _ => frame_zero_getElem? hi⟩
  | access a r he hword =>
    rw [packetAfter_of_no_command he (eventCommand_of_cmdWord_none hword)]
    exact hp
  | illegal c x he hc =>
    subst he
    rw [packetAfter_of_no_command (memWrite_ne_reset _ _) (eventCommand_memWrite_cmd_of_error hc)]
    exact hp
  | command c i t he hc ht =>
    subst he
    rw [packetAfter_of_command (memWrite_ne_reset _ _) (eventCommand_memWrite_cmd_of_ok hc)]
    cases hi : wirePacket i with
    | none =>
      obtain ⟨hframe, hflen⟩ := ht.frame_eq hi
      exact HoldsPacket.congr hp hframe hflen
    | some q =>
      rw [ht.eq_loadPacket hi]
      exact HoldsPacket.congr (holdsPacket_loadPacket s (wirePacket_length_le hi)) rfl rfl

/-- Settles O57. -/
theorem stepKeepsTheLastPacket : Obligations.StepKeepsTheLastPacket := by
  intro s p e rest hr hpacket hp
  obtain ⟨t, hstep, heffect, hready, hpending⟩ := step_completes hr hp
  exact ⟨t, hstep, heffect.holdsPacket hpacket, hready, hpending⟩

/-! ### The sum along the events -/

theorem fedAfter_of_no_command {e : HostEvent} (h : e ≠ .reset) (hc : eventCommand e = none) (fed : List Byte) :
    fedAfter fed e = fed := by
  cases e with
  | reset => exact absurd rfl h
  | access off n kind => rw [fedAfter, hc]

theorem fedAfter_of_other_command {e : HostEvent} {i : Instr} (h : e ≠ .reset) (hc : eventCommand e = some i)
    (hi : feedsSum i = false) (fed : List Byte) : fedAfter fed e = fed := by
  cases e with
  | reset => exact absurd rfl h
  | access off n kind =>
    rw [fedAfter, hc]
    cases i with
    | encMove | encReadMoving | ckFinal | mapA2p | mapP2a => rfl
    | ckInit | ckByte => cases hi

theorem fedAfter_of_ckInit {e : HostEvent} (h : e ≠ .reset) (hc : eventCommand e = some .ckInit) (fed : List Byte) :
    fedAfter fed e = [] := by
  cases e with
  | reset => exact absurd rfl h
  | access off n kind => rw [fedAfter, hc]

theorem fedAfter_of_ckByte {e : HostEvent} {b : Byte} (h : e ≠ .reset) (hc : eventCommand e = some (.ckByte b))
    (fed : List Byte) : fedAfter fed e = fed ++ [b] := by
  cases e with
  | reset => exact absurd rfl h
  | access off n kind => rw [fedAfter, hc]

/-- Adding a byte to ACC adds it to the sum, with no carry kept (40_frame_codec.md R86). -/
theorem acc_add_toNat {a : Byte} {fed : List Byte} (h : a.toNat = byteSum fed % 256) (b : Byte) :
    (a + b).toNat = byteSum (fed ++ [b]) % 256 := by
  rw [BitVec.toNat_add, h, byteSum_append, byteSum_cons, byteSum_nil]
  omega

/-- The state after an event holds the sum of the bytes fed after it. -/
theorem EventEffect.holdsSum {e : HostEvent} {rest : List HostEvent} {s t : State} {fed : List Byte}
    (h : EventEffect e rest s t) (hs : HoldsSum s fed) : HoldsSum t (fedAfter fed e) := by
  cases h with
  | reset he => subst he; exact ⟨rfl, rfl⟩
  | access a r he hword =>
    rw [fedAfter_of_no_command he (eventCommand_of_cmdWord_none hword)]
    exact hs
  | illegal c x he hc =>
    subst he
    rw [fedAfter_of_no_command (memWrite_ne_reset _ _) (eventCommand_memWrite_cmd_of_error hc)]
    exact hs
  | command c i t he hc ht =>
    subst he
    have hcommand := eventCommand_memWrite_cmd_of_ok hc
    cases hi : feedsSum i with
    | false =>
      obtain ⟨hacc, hckne⟩ := ht.sum_eq hi
      rw [fedAfter_of_other_command (memWrite_ne_reset _ _) hcommand hi, HoldsSum, hacc, hckne]
      exact hs
    | true =>
      rcases feedsSum_cases hi with rfl | ⟨b, rfl⟩
      · rw [fedAfter_of_ckInit (memWrite_ne_reset _ _) hcommand, ht.eq_of_ckInit]
        exact ⟨rfl, rfl⟩
      · rw [fedAfter_of_ckByte (memWrite_ne_reset _ _) hcommand, ht.eq_of_ckByte]
        exact ⟨acc_add_toNat hs.1 b, by simp⟩

/-- Settles O56. -/
theorem stepKeepsTheSumOfTheBytesFed : Obligations.StepKeepsTheSumOfTheBytesFed := by
  intro s fed e rest hr hs hp
  obtain ⟨t, hstep, heffect, hready, hpending⟩ := step_completes hr hp
  exact ⟨t, hstep, heffect.holdsSum hs, hready, hpending⟩

/-! ### The invariant of the whole machine -/

/-- Settles O20: the reset state is ready, and its buffer and its sum are empty. -/
theorem resetStateMeetsInv : Obligations.ResetStateMeetsInv :=
  ⟨by decide, ⟨.inl rfl, fun _ hi _ => frame_zero_getElem? hi, fun h => absurd rfl h⟩, fun h => absurd rfl h,
    fun _ => rfl⟩

/-- An event keeps the buffer consistent: it leaves FRAME and FLEN, clears them, or loads a command's packet. -/
theorem EventEffect.frameInv {e : HostEvent} {rest : List HostEvent} {s t : State} (h : EventEffect e rest s t)
    (hs : FrameInv s ∧ LengthInv s) : FrameInv t ∧ LengthInv t := by
  obtain ⟨-, hframe, hlength, -⟩ := resetStateMeetsInv
  cases h with
  | reset => exact FrameInv.congr ⟨hframe, hlength⟩ rfl rfl
  | access | illegal => exact FrameInv.congr hs rfl rfl
  | command c i t he hc ht =>
    cases hi : wirePacket i with
    | none =>
      obtain ⟨hframe, hflen⟩ := ht.frame_eq hi
      exact FrameInv.congr hs hframe hflen
    | some p =>
      obtain ⟨sid, code, ps, rfl, hlen⟩ := wirePacket_eq_buildPacket hi
      rw [ht.eq_loadPacket hi]
      exact FrameInv.congr
        (frameInv_of_holdsPacket (holdsPacket_loadPacket s (wirePacket_length_le hi)) hlen) rfl rfl

/-- An event keeps the sum consistent: a byte fed sets CKNE, and what clears CKNE clears ACC. -/
theorem EventEffect.sumInv {e : HostEvent} {rest : List HostEvent} {s t : State} (h : EventEffect e rest s t)
    (hs : SumInv s) : SumInv t := by
  cases h with
  | reset => exact fun _ => rfl
  | access | illegal => exact hs
  | command c i t he hc ht =>
    cases hi : feedsSum i with
    | false =>
      obtain ⟨hacc, hckne⟩ := ht.sum_eq hi
      rw [SumInv, hacc, hckne]
      exact hs
    | true =>
      rcases feedsSum_cases hi with rfl | ⟨b, rfl⟩
      · rw [ht.eq_of_ckInit]
        exact fun _ => rfl
      · rw [ht.eq_of_ckByte]
        exact nofun

/-- A step from a state that meets the invariant completes in one that meets it. -/
theorem step_keeps_inv {s : State} (h : Inv s) : ∃ t, step s = .next t ∧ Inv t := by
  obtain ⟨hr, hframe, hlength, hsum⟩ := h
  cases hp : s.pending with
  | nil => exact ⟨s, step_of_idle hr hp, hr, hframe, hlength, hsum⟩
  | cons e rest =>
    obtain ⟨t, hstep, heffect, hready, -⟩ := step_completes hr hp
    obtain ⟨hframe', hlength'⟩ := heffect.frameInv ⟨hframe, hlength⟩
    exact ⟨t, hstep, hready, hframe', hlength', heffect.sumInv hsum⟩

/-- Settles O53. -/
theorem stepKeepsInv : Obligations.StepKeepsInv := by
  intro s t hs h
  obtain ⟨u, hu, hinv⟩ := step_keeps_inv hs
  cases hu.symm.trans h
  exact hinv

/-! ### Along runs -/

/-- Settles O54: by induction on the number of steps. -/
theorem noHostSequenceStopsTheMachine : Obligations.NoHostSequenceStopsTheMachine := by
  intro n
  induction n with
  | zero => exact fun s hs => ⟨s, rfl, hs⟩
  | succ n ih =>
    intro s hs
    obtain ⟨u, hstep, hu⟩ := step_keeps_inv hs
    rw [runSteps_succ_next hstep]
    exact ih u hu

/-- A run over a list of events that all meet `Q`: what the state shows (`R`) follows what the events make of it (`f`),
when it does so at each step. -/
theorem runSteps_over_events {α : Type} {R : State → α → Prop} {f : α → HostEvent → α} {Q : HostEvent → Prop}
    (hstep : ∀ (s : State) (a : α) (e : HostEvent) (rest : List HostEvent), Q e → Ready s → R s a →
      s.pending = e :: rest → ∃ t, step s = .next t ∧ R t (f a e) ∧ Ready t ∧ t.pending = rest)
    (rest : List HostEvent) (es : List HostEvent) (hQ : ∀ e ∈ es, Q e) {s : State} {a : α} (hr : Ready s) (hs : R s a)
    (hp : s.pending = es ++ rest) :
    ∃ t, runSteps es.length s = .next t ∧ R t (es.foldl f a) ∧ Ready t ∧ t.pending = rest := by
  induction es generalizing s a with
  | nil => exact ⟨s, rfl, hs, hr, hp⟩
  | cons e es ih =>
    obtain ⟨hQe, hQes⟩ := List.forall_mem_cons.1 hQ
    obtain ⟨u, hu, hRu, hru, hpu⟩ := hstep s a e (es ++ rest) hQe hr hs hp
    rw [List.length_cons, runSteps_succ_next hu]
    exact ih hQes hru hRu hpu

theorem ready_reset (es : List HostEvent) : Ready { State.reset with pending := es } :=
  resetStateMeetsInv.1

/-- Settles O29: the step invariant of O56 along the events. -/
theorem sumHoldsTheBytesFedSinceInit : Obligations.SumHoldsTheBytesFedSinceInit := by
  intro es
  obtain ⟨t, hrun, hsum, -⟩ := runSteps_over_events (R := HoldsSum) (Q := fun _ => True)
    (fun s fed e rest _ => stepKeepsTheSumOfTheBytesFed s fed e rest) [] es (fun _ _ => trivial) (ready_reset es)
    (a := []) ⟨rfl, rfl⟩ (List.append_nil es).symm
  exact ⟨t, hrun, hsum⟩

/-- Settles O30: the step invariant of O57 along the events. -/
theorem frameHoldsTheLastPacket : Obligations.FrameHoldsTheLastPacket := by
  intro es
  obtain ⟨t, hrun, hpacket, -⟩ := runSteps_over_events (R := HoldsPacket) (Q := fun _ => True)
    (fun s p e rest _ => stepKeepsTheLastPacket s p e rest) [] es (fun _ _ => trivial) (ready_reset es)
    (a := []) ⟨rfl, rfl, fun _ hi _ => frame_zero_getElem? hi⟩ (List.append_nil es).symm
  exact ⟨t, hrun, hpacket⟩

/-- An event that is neither a reset nor a legal write of ARG leaves ARG (10_state.md R22). -/
theorem EventEffect.arg_eq {e : HostEvent} {rest : List HostEvent} {s t : State} (h : EventEffect e rest s t)
    (he : e ≠ .reset ∧ ∀ w, e ≠ memWrite .arg w) : t.arg = s.arg := by
  cases h with
  | reset hreset => exact absurd hreset he.1
  | access a r _ _ ha => exact ha he.2
  | illegal => rfl
  | command c i t _ _ ht => exact ht.arg_eq

/-- Settles O12: the write, the events between, the read. -/
theorem argIsWrittenByTheHostOnly : Obligations.ArgIsWrittenByTheHostOnly := by
  intro s v es rest hr hes hp
  have hwrite := step_of_memWrite_arg hr hp
  have hstep : ∀ (s : State) (a : Word) (e : HostEvent) (rest : List HostEvent),
      (e ≠ .reset ∧ ∀ w, e ≠ memWrite .arg w) → Ready s → s.arg = a → s.pending = e :: rest →
      ∃ t, step s = .next t ∧ t.arg = a ∧ Ready t ∧ t.pending = rest := by
    intro s a e rest he hr ha hp
    obtain ⟨t, hstep, heffect, hready, hpending⟩ := step_completes hr hp
    exact ⟨t, hstep, (heffect.arg_eq he).trans ha, hready, hpending⟩
  have hready : Ready { s with arg := v, pending := es ++ memRead .arg :: rest, response := .written } := hr
  obtain ⟨t, hrun, ht, hrt, hpt⟩ := runSteps_over_events (R := fun s a => s.arg = a) (f := fun a _ => a) hstep
    (memRead .arg :: rest) es hes hready (a := v) rfl rfl
  rw [List.foldl_fixed] at ht
  have hread := step_of_memRead (r := .arg) hrt hpt rfl
  refine ⟨{ t with pending := rest, response := .data t.arg }, ?_, ht, congrArg Response.data ht, rfl⟩
  rw [show es.length + 2 = (es.length + 1) + 1 from rfl, runSteps_succ_next hwrite]
  exact runSteps_add hrun (runSteps_succ_next hread)

end Sys2Proof.Machine
end

section
/-! The checksum (40_frame_codec.md R81, R82, R88): what it is of a sequence, that the streaming commands compute it
whatever the length of the sequence, and that the packets built carry it. -/

namespace Sys2Proof.Machine

/-! ### The checksum of a sequence -/

theorem byteSum_perm {as bs : List Byte} (h : as.Perm bs) : byteSum as = byteSum bs :=
  (h.map BitVec.toNat).sum_eq

/-- Subtracting from 255 flips every bit of a byte. -/
theorem xor_255 {n : Nat} (h : n < 256) : n ^^^ 255 = 255 - n := by
  have hnot := congrArg BitVec.toNat (BitVec.xor_allOnes (x := BitVec.ofNat 8 n))
  rw [BitVec.toNat_xor, BitVec.toNat_not, BitVec.toNat_ofNat, BitVec.toNat_allOnes, Nat.mod_eq_of_lt h] at hnot
  exact hnot

/-- Settles O26: the complement of the sum modulo 256, as Python writes it and as flipped bits; the sum does not see the
order of the bytes. -/
theorem checksumIsTheComplementOfTheSum : Obligations.ChecksumIsTheComplementOfTheSum := by
  intro b bs
  refine ⟨?_, ?_, fun c cs hperm => BitVec.eq_of_toNat_eq ?_⟩
  · rw [checksum_toNat]
    omega
  · rw [checksum_toNat, xor_255 (Nat.mod_lt _ (by omega))]
  · rw [checksum_toNat, checksum_toNat, byteSum_perm hperm]

/-! ### Streaming -/

/-- The state after a successful CK_BYTE that leaves `acc`, with the events `es` still pending. -/
def State.summed (s : State) (acc : Byte) (es : List HostEvent) : State :=
  { s with acc := acc, ckne := true, err := 0, pending := es, response := .written }

theorem ready_summed {s : State} (h : s.params.wellFormed = true) (acc : Byte) (es : List HostEvent) :
    Ready (s.summed acc es) :=
  ⟨h, Nat.zero_le 2⟩

theorem step_ckByte {s : State} (hr : Ready s) {b : Byte} {es : List HostEvent}
    (hp : s.pending = cmdWrite (.ckByte b) :: es) : step s = .next (s.summed (s.acc + b) es) :=
  (step_of_cmdWrite hr hp).trans (exec_ckByte b _)

/-- A run of CK_BYTE commands adds their bytes to ACC. -/
theorem runSteps_ckBytes {s : State} (h : s.params.wellFormed = true) (es : List HostEvent) (bs : List Byte)
    (acc : Byte) :
    runSteps bs.length (s.summed acc ((bs.map fun b => cmdWrite (.ckByte b)) ++ es)) =
      .next (s.summed (bs.foldl (· + ·) acc) es) := by
  induction bs generalizing acc with
  | nil => rfl
  | cons b bs ih =>
    have hstep := step_ckByte (ready_summed h acc (((b :: bs).map fun b => cmdWrite (.ckByte b)) ++ es)) rfl
    rw [List.length_cons, runSteps_succ_next hstep, List.foldl_cons]
    exact ih (acc + b)

theorem foldl_add_toNat (bs : List Byte) (acc : Byte) :
    (bs.foldl (· + ·) acc).toNat = (acc.toNat + byteSum bs) % 256 := by
  induction bs generalizing acc with
  | nil =>
    rw [List.foldl_nil, byteSum_nil]
    omega
  | cons b bs ih =>
    rw [List.foldl_cons, ih, BitVec.toNat_add, byteSum_cons]
    omega

/-- CK_INIT and the first CK_BYTE start the sum at that byte, whatever the state before. -/
theorem runSteps_ckInit_ckByte {s : State} (hr : Ready s) {b : Byte} {es : List HostEvent}
    (hp : s.pending = cmdWrite .ckInit :: cmdWrite (.ckByte b) :: es) : runSteps 2 s = .next (s.summed b es) := by
  have hinit := (step_of_cmdWrite hr hp).trans (exec_ckInit _)
  have hbyte := step_ckByte (b := b) (es := es) (s := { s with
    acc := 0, ckne := false, err := 0, pending := cmdWrite (.ckByte b) :: es, response := .written })
    ⟨hr.1, Nat.zero_le 2⟩ rfl
  have hacc : (0 : Byte) + b = b := BitVec.zero_add b
  calc runSteps 2 s
      = .next (s.summed (0 + b) es) := (runSteps_succ_next hinit).trans (runSteps_succ_next hbyte)
    _ = .next (s.summed b es) := by rw [hacc]

/-- CK_FINAL delivers the complement of the sum. -/
theorem step_ckFinal_summed {s : State} (h : s.params.wellFormed = true) (acc : Byte) (es : List HostEvent) :
    step (s.summed acc (cmdWrite .ckFinal :: es)) =
      .next { s.summed acc es with result := BitVec.ofNat 32 (255 - acc.toNat) } := by
  rw [step_of_cmdWrite (ready_summed h acc _) rfl]
  exact exec_ckFinal_of_ckne rfl

/-- The complement of the sum of a sequence is its checksum, zero-extended. -/
theorem ofNat_complement_eq_checksum {b : Byte} {bs : List Byte} {acc : Byte}
    (h : acc.toNat = byteSum (b :: bs) % 256) :
    BitVec.ofNat 32 (255 - acc.toNat) = (checksum b bs).setWidth 32 := by
  apply BitVec.eq_of_toNat_eq
  rw [ofNat_complement_toNat, BitVec.toNat_setWidth, checksum_toNat, h]
  omega

/-- The run over the expansion of `CKSUM b, bs…` (30_encoding.md R71). -/
theorem runSteps_cksumEvents {s : State} (hr : Ready s) {b : Byte} {bs : List Byte} {rest : List HostEvent}
    (hp : s.pending = cksumEvents (b :: bs) ++ rest) :
    ∃ acc : Byte, acc.toNat = byteSum (b :: bs) % 256 ∧
      runSteps (bs.length + 3) s = .next { s.summed acc rest with result := (checksum b bs).setWidth 32 } := by
  have hsum : (bs.foldl (· + ·) b).toNat = byteSum (b :: bs) % 256 := by rw [foldl_add_toNat, byteSum_cons]
  refine ⟨_, hsum, ?_⟩
  have hfirst : runSteps 2 s =
      .next (s.summed b ((bs.map fun b => cmdWrite (.ckByte b)) ++ cmdWrite .ckFinal :: rest)) :=
    runSteps_ckInit_ckByte hr (by rw [hp]; simp [cksumEvents])
  have hfinal := step_ckFinal_summed hr.1 (bs.foldl (· + ·) b) rest
  rw [ofNat_complement_eq_checksum hsum] at hfinal
  have hlast := runSteps_add (runSteps_ckBytes hr.1 _ bs b) (runSteps_succ_next (k := 0) hfinal)
  rw [show bs.length + 3 = 2 + (bs.length + 1) by omega]
  exact runSteps_add hfirst hlast

/-- Settles O27. -/
theorem streamingGivesTheChecksum : Obligations.StreamingGivesTheChecksum := by
  intro s b bs rest hr hp
  obtain ⟨acc, hacc, hrun⟩ := runSteps_cksumEvents hr hp
  exact ⟨_, acc, hrun, hacc, rfl⟩

/-! ### Packets -/

/-- A state that holds a general packet carries the checksum of its payload as the packet's last byte, and streaming the
payload delivers that byte. -/
theorem packet_checks_itself {s : State} (hr : Ready s) {sid code : Byte} {ps : List Byte}
    (h : s.packet = buildPacket sid code ps) :
    ∃ (u : State) (ck : Byte), s.packet.getLast? = some ck ∧ checksumOf s.payload = some ck ∧
      runSteps (s.payload.length + 2) { s with pending := cksumEvents s.payload } = .next u ∧
      u.result = ck.setWidth 32 ∧ u.frame = s.frame ∧ u.flen = s.flen := by
  have hpayload : s.payload = sid :: ([BitVec.ofNat 8 (2 + ps.length), code] ++ ps) := by
    rw [State.payload, h, buildPacket_drop_dropLast]
  rw [hpayload, h, buildPacket_getLast?, checksumOf_cons]
  obtain ⟨acc, -, hrun⟩ := runSteps_cksumEvents
    (s := { s with pending := cksumEvents (sid :: ([BitVec.ofNat 8 (2 + ps.length), code] ++ ps)) })
    hr (List.append_nil _).symm
  exact ⟨_, _, rfl, rfl, hrun, rfl, rfl, rfl⟩

/-- Settles O28: what the command loads is a general packet. -/
theorem builtPacketsCheckThemselves : Obligations.BuiltPacketsCheckThemselves := by
  intro s i hr hi
  obtain ⟨sid, code, ps, hwire, -⟩ := exists_wirePacket hi
  have hpacket := (holdsPacket_loadPacket s (wirePacket_length_le hwire)).1
  have hready : Ready (s.loadPacket (buildPacket sid code ps)).succeed := ⟨hr.1, Nat.zero_le 2⟩
  obtain ⟨u, ck, hlast, hcheck, hrun, hu⟩ := packet_checks_itself hready hpacket
  exact ⟨_, u, ck, exec_of_wirePacket hwire s, hlast, hcheck, hrun, hu⟩

end Sys2Proof.Machine
end

section
/-! The joint mapper over all its inputs (00_scope.md R9, 41_joint_mapper.md R101 to R109): which parameters are accepted,
what its fractions stand for, monotonicity and saturation, and what is lost on the way from a position to an angle and
back, or from an angle to a position and back. -/

namespace Sys2Proof.Machine

/-! ### The accepted parameters -/

/-- Testing MAP_P2A at both ends of its input is testing it everywhere (10_state.md R34). -/
theorem entryWellFormed_iff_accepted (p : Params) (e : CalEntry) : entryWellFormed p e = true ↔ EntryAccepted p e := by
  constructor
  · intro h
    obtain ⟨hgrn, hgrd, hrange, hminmax, hmax, hcenter, -⟩ := (entryWellFormed_iff p e).1 h
    exact ⟨hgrn, hgrd, hrange, hminmax, hmax, hcenter, p2aAlwaysFits_of_entryWellFormed h⟩
  · rintro ⟨hgrn, hgrd, hrange, hminmax, hmax, hcenter, hfits⟩
    exact (entryWellFormed_iff p e).2
      ⟨hgrn, hgrd, hrange, hminmax, hmax, hcenter, hfits 0 (by omega), hfits 4095 (by omega)⟩

/-- Settles O44. -/
theorem parameterCheckIsTheSpecsCondition : Obligations.ParameterCheckIsTheSpecsCondition := by
  intro p
  rw [wellFormed_iff, entryWellFormed_iff_accepted, entryWellFormed_iff_accepted]
  rfl

theorem whenWellFormed_of_not_wellFormed {s : State} (t : State) (h : s.params.wellFormed = false) :
    whenWellFormed s t = .refused .illFormedParameters := by
  simp [whenWellFormed, h]

/-- Settles O46: the check that refuses is the spec's condition. -/
theorem illFormedParametersAreRefused : Obligations.IllFormedParametersAreRefused := by
  intro s j p hnot
  have hill : s.params.wellFormed = false :=
    Bool.eq_false_iff.2 fun h => hnot ((parameterCheckIsTheSpecsCondition s.params).1 h)
  refine ⟨?_, whenWellFormed_of_not_wellFormed _ hill, whenWellFormed_of_not_wellFormed _ hill⟩
  simp only [step, performNext, hill, Bool.false_eq_true, if_false]

/-- The parameters of this hardware with either rounding mode (00_scope.md R8). -/
def defaultWithMode (mode : RoundMode) : Params := { defaultParams with roundMode := mode }

theorem eq_defaultWithMode {p : Params} (hcal : p.cal = defaultCal) (hfrac : p.angleFracBits = 16) :
    p = defaultWithMode p.roundMode := by
  cases p
  simp only at hcal hfrac
  subst hcal hfrac
  rfl

theorem defaultWithMode_wellFormed (mode : RoundMode) : (defaultWithMode mode).wellFormed = true := by
  cases mode <;> decide

/-- Settles O45. -/
theorem defaultParametersAreWellFormed : Obligations.DefaultParametersAreWellFormed := defaultWithMode_wellFormed

theorem wellFormed_of_default {p : Params} (hcal : p.cal = defaultCal) (hfrac : p.angleFracBits = 16) :
    p.wellFormed = true := by
  rw [eq_defaultWithMode hcal hfrac]
  exact defaultWithMode_wellFormed _

/-! ### The fractions -/

/-- `N` of MAP_A2P by the two divisors (41_joint_mapper.md R104, R105). -/
theorem a2pNumerator_eq (frac : Nat) (e : CalEntry) (a : Int) :
    a2pNumerator frac e a = e.center * a2pDenominator frac e + a * p2aDenominator e := by
  rw [a2pNumerator, p2aDenominator, mul_assoc]

/-- `N` of MAP_P2A by the divisor of MAP_A2P. -/
theorem p2aNumerator_eq_mul (frac : Nat) (e : CalEntry) (pos : Nat) :
    p2aNumerator frac e pos = ((pos : Int) - e.center) * a2pDenominator frac e := by
  rw [p2aNumerator_eq, a2pDenominator_eq]
  ring

/-- The two divisors give the derived ratio: `dpp = D_a2p / (D_p2a * 2^F)` (R101). -/
theorem degreesPerPosition_eq_div (frac : Nat) (e : CalEntry) :
    degreesPerPosition e = (a2pDenominator frac e : Rat) / ((p2aDenominator e : Rat) * 2 ^ frac) := by
  have hpow : (2 ^ frac : Rat) ≠ 0 := by positivity
  rw [a2pDenominator_eq, p2aDenominator, degreesPerPosition]
  push_cast
  rw [mul_div_mul_right _ _ hpow, mul_comm (360 : Rat)]

/-- Settles O36: both fractions by their divisors, whose quotient is the derived ratio. -/
theorem mapperFractionsAreTheFormulas : Obligations.MapperFractionsAreTheFormulas := by
  intro e frac hgrn hgrd hrange
  have hD : (a2pDenominator frac e : Rat) ≠ 0 := by exact_mod_cast (a2pDenominator_pos hgrd).ne'
  have hG : (p2aDenominator e : Rat) ≠ 0 := by exact_mod_cast (p2aDenominator_pos hgrn hrange).ne'
  rw [degreesPerPosition_eq_div frac e]
  constructor
  · intro a
    rw [a2pNumerator_eq]
    push_cast
    field_simp
  · intro pos
    rw [p2aNumerator_eq_mul]
    push_cast
    field_simp

/-! ### Monotonicity and saturation of MAP_A2P -/

theorem a2pNumerator_mono (frac : Nat) (e : CalEntry) {a b : Int} (h : a ≤ b) :
    a2pNumerator frac e a ≤ a2pNumerator frac e b := by
  unfold a2pNumerator
  gcongr

/-- MAP_A2P is monotone in the signed angle. -/
theorem a2pPosition_mono {p : Params} {e : CalEntry} (h : entryWellFormed p e = true) {a b : Int} (hab : a ≤ b) :
    a2pPosition p e a ≤ a2pPosition p e b := by
  obtain ⟨-, hgrd, -, hminmax, -⟩ := (entryWellFormed_iff p e).1 h
  exact clamp_mono (by exact_mod_cast hminmax)
    (roundQ_mono p.roundMode (a2pDenominator_pos hgrd) (a2pNumerator_mono p.angleFracBits e hab))

/-- The clamp bounds of an accepted entry hold of every position. -/
theorem a2pPosition_bounds {p : Params} {e : CalEntry} (h : entryWellFormed p e = true) (a : Int) :
    (e.min : Int) ≤ a2pPosition p e a ∧ a2pPosition p e a ≤ e.max := by
  obtain ⟨-, -, -, hminmax, -⟩ := (entryWellFormed_iff p e).1 h
  have hle : (e.min : Int) ≤ e.max := by exact_mod_cast hminmax
  exact ⟨le_clamp hle, clamp_le hle⟩

/-- MAP_A2P completes, and RESULT as a number is the clamped position. -/
theorem exists_exec_mapA2p {s : State} (h : s.params.wellFormed = true) (j : Joint) :
    ∃ t, exec (.mapA2p j) s = .next t ∧
      (t.result.toNat : Int) = a2pPosition s.params (calEntry s.params.cal j) (sext32 s.arg) := by
  obtain ⟨hlo, hhi⟩ := a2pPosition_mem (entryWellFormed_of_wellFormed h j) (angleOperand s.arg)
  rw [sext32_eq_angleOperand]
  exact ⟨_, exec_mapA2p h j, ofInt_toNat hlo (by omega)⟩

/-- Settles O37. -/
theorem mapA2pIsMonotoneWithinTheClamp : Obligations.MapA2pIsMonotoneWithinTheClamp := by
  intro j s w hwf hle
  have hentry := entryWellFormed_of_wellFormed hwf j
  obtain ⟨t, ht, ht_pos⟩ := exists_exec_mapA2p hwf j
  obtain ⟨u, hu, hu_pos⟩ : ∃ u, exec (.mapA2p j) { s with arg := w } = .next u ∧
      (u.result.toNat : Int) = a2pPosition s.params (calEntry s.params.cal j) (sext32 w) :=
    exists_exec_mapA2p (s := { s with arg := w }) hwf j
  have hmono := a2pPosition_mono hentry hle
  obtain ⟨hlo, -⟩ := a2pPosition_bounds hentry (sext32 s.arg)
  obtain ⟨-, hhi⟩ := a2pPosition_bounds hentry (sext32 w)
  obtain ⟨-, hmem⟩ := a2pPosition_mem hentry (sext32 s.arg)
  have hhigh : t.result.extractLsb' 12 20 = 0 := field_eq_zero (by omega)
  exact ⟨t, u, ht, hu, by omega, by omega, by omega, hhigh⟩

/-- The lower threshold: the angles that saturate at `MIN` are those up to one that does, when the next one does not. -/
theorem a2pPosition_eq_min_iff {p : Params} {e : CalEntry} (h : entryWellFormed p e = true) {x : Int}
    (hat : a2pPosition p e x = e.min) (hnext : a2pPosition p e (x + 1) = e.min + 1) (a : Int) :
    a2pPosition p e a = e.min ↔ a ≤ x := by
  constructor
  · intro ha
    by_contra hlt
    have := a2pPosition_mono h (show x + 1 ≤ a by omega)
    omega
  · intro ha
    have := a2pPosition_mono h ha
    have := (a2pPosition_bounds h a).1
    omega

/-- The upper threshold. -/
theorem a2pPosition_eq_max_iff {p : Params} {e : CalEntry} (h : entryWellFormed p e = true) {x : Int}
    (hat : a2pPosition p e x = e.max) (hprev : a2pPosition p e (x - 1) = e.max - 1) (a : Int) :
    a2pPosition p e a = e.max ↔ x ≤ a := by
  constructor
  · intro ha
    by_contra hlt
    have := a2pPosition_mono h (show a ≤ x - 1 by omega)
    omega
  · intro ha
    have := a2pPosition_mono h ha
    have := (a2pPosition_bounds h a).2
    omega

/-- RESULT is a given word when the position is its number. -/
theorem result_eq_iff {r w : Word} {x : Int} {n : Nat} (hr : (r.toNat : Int) = x) (hw : w.toNat = n) :
    r = w ↔ x = n := by
  rw [← BitVec.toNat_inj, hw, ← hr]
  exact Int.natCast_inj.symm

/-- The four clauses on one joint follow from the positions at its two thresholds and next to them. -/
theorem saturation_of_thresholds {p : Params} {e : CalEntry} (h : entryWellFormed p e = true) {lo hi min max : Word}
    {r a : Word} (hr : (r.toNat : Int) = a2pPosition p e (sext32 a)) (hmin : min.toNat = e.min)
    (hmax : max.toNat = e.max) (hlo_at : a2pPosition p e (sext32 lo) = e.min)
    (hlo_next : a2pPosition p e (sext32 lo + 1) = e.min + 1) (hhi_at : a2pPosition p e (sext32 hi) = e.max)
    (hhi_prev : a2pPosition p e (sext32 hi - 1) = e.max - 1) :
    (r = min ↔ sext32 a ≤ sext32 lo) ∧ (r = max ↔ sext32 hi ≤ sext32 a) := by
  rw [result_eq_iff hr hmin, result_eq_iff hr hmax]
  exact ⟨a2pPosition_eq_min_iff h hlo_at hlo_next _, a2pPosition_eq_max_iff h hhi_at hhi_prev _⟩

/-- The positions at the thresholds of joint 0 and next to them (41_joint_mapper.md R107), evaluated. -/
theorem a2pPosition_flexion_thresholds (mode : RoundMode) :
    a2pPosition (defaultWithMode mode) flexionEntry (sext32 0xFFE54294) = 1500 ∧
    a2pPosition (defaultWithMode mode) flexionEntry (sext32 0xFFE54294 + 1) = 1501 ∧
    a2pPosition (defaultWithMode mode) flexionEntry (sext32 0x0063F380) = 4095 ∧
    a2pPosition (defaultWithMode mode) flexionEntry (sext32 0x0063F380 - 1) = 4094 := by
  cases mode <;> decide

/-- The positions at the thresholds of joint 1 and next to them (R107), evaluated. -/
theorem a2pPosition_ulnar_thresholds (mode : RoundMode) :
    a2pPosition (defaultWithMode mode) ulnarEntry (sext32 0xFFC503C1) = 1200 ∧
    a2pPosition (defaultWithMode mode) ulnarEntry (sext32 0xFFC503C1 + 1) = 1201 ∧
    a2pPosition (defaultWithMode mode) ulnarEntry (sext32 0x003AFC3F) = 3100 ∧
    a2pPosition (defaultWithMode mode) ulnarEntry (sext32 0x003AFC3F - 1) = 3099 := by
  cases mode <;> decide

/-- Settles O38. -/
theorem mapA2pSaturatesExactlyAtTheThresholds : Obligations.MapA2pSaturatesExactlyAtTheThresholds := by
  intro j s hcal hfrac
  have hwf := wellFormed_of_default hcal hfrac
  have hentry := entryWellFormed_of_wellFormed hwf j
  obtain ⟨t, ht, hresult⟩ := exists_exec_mapA2p hwf j
  refine ⟨t, ht, ?_⟩
  rw [eq_defaultWithMode hcal hfrac] at hresult hentry
  generalize s.params.roundMode = mode at hresult hentry
  cases j with
  | flexion =>
    obtain ⟨hlo_at, hlo_next, hhi_at, hhi_prev⟩ := a2pPosition_flexion_thresholds mode
    obtain ⟨hmin, hmax⟩ := saturation_of_thresholds (min := 1500) (max := 4095) hentry hresult rfl rfl
      hlo_at hlo_next hhi_at hhi_prev
    exact ⟨hmin, hmax, fun harg => (result_eq_iff hresult rfl).2 (by rw [harg]; exact hlo_next),
      fun harg => (result_eq_iff hresult rfl).2 (by rw [harg]; exact hhi_prev)⟩
  | ulnar =>
    obtain ⟨hlo_at, hlo_next, hhi_at, hhi_prev⟩ := a2pPosition_ulnar_thresholds mode
    obtain ⟨hmin, hmax⟩ := saturation_of_thresholds (min := 1200) (max := 3100) hentry hresult rfl rfl
      hlo_at hlo_next hhi_at hhi_prev
    exact ⟨hmin, hmax, fun harg => (result_eq_iff hresult rfl).2 (by rw [harg]; exact hlo_next),
      fun harg => (result_eq_iff hresult rfl).2 (by rw [harg]; exact hhi_prev)⟩

/-! ### Uniqueness of the nearest integer -/

/-- An integer closer than half a unit to the quotient is the one both modes round to. -/
theorem roundQ_eq_of_abs_roundingError_lt (mode : RoundMode) {q n d : Int} (hd : 0 < d)
    (h : |roundingError q n d| < d) : roundQ mode n d = q := by
  have hround := abs_roundingError_roundQ_le mode n hd
  rw [roundingError, abs_lt] at h
  rw [roundingError, abs_le] at hround
  obtain ⟨hlo, hhi⟩ := h
  obtain ⟨hlo', hhi'⟩ := hround
  have hlt : roundQ mode n d * d < (q + 1) * d := by linarith
  have hgt : (q - 1) * d < roundQ mode n d * d := by linarith
  have := lt_of_mul_lt_mul_right hlt hd.le
  have := lt_of_mul_lt_mul_right hgt hd.le
  omega

/-- Where no integer is half a unit away, the rounding mode does not matter. -/
theorem roundQ_eq_of_no_half (mode mode' : RoundMode) {n d : Int} (hd : 0 < d)
    (h : ∀ q, |roundingError q n d| ≠ d) : roundQ mode n d = roundQ mode' n d :=
  roundQ_eq_of_abs_roundingError_lt mode hd ((abs_roundingError_roundQ_le mode' n hd).lt_of_ne (h _))

/-! ### There and back -/

/-- A position survives the way to an angle and back where a step of the angle is finer than one of the position. -/
theorem a2pRounded_p2aAngle {p : Params} {e : CalEntry} (hG : 0 < p2aDenominator e)
    (hfine : p2aDenominator e < a2pDenominator p.angleFracBits e) (pos : Nat) :
    a2pRounded p e (p2aAngle p e pos) = pos := by
  apply roundQ_eq_of_abs_roundingError_lt _ (hG.trans hfine)
  have hangle := abs_roundingError_roundQ_le p.roundMode (p2aNumerator p.angleFracBits e pos) hG
  rw [← p2aAngle, roundingError, p2aNumerator_eq_mul] at hangle
  rw [roundingError, a2pNumerator_eq, ← abs_neg]
  refine lt_of_eq_of_lt ?_ (hangle.trans_lt hfine)
  congr 1
  ring

/-- An angle that rounds to a position comes back within half a position and half a step, in units of `1 / D_p2a`. -/
theorem abs_p2aAngle_sub_le {p : Params} {e : CalEntry} (hG : 0 < p2aDenominator e)
    (hD : 0 < a2pDenominator p.angleFracBits e) {a : Int} {pos : Nat} (hpos : a2pRounded p e a = pos) :
    |2 * (p2aAngle p e pos - a) * p2aDenominator e| ≤ p2aDenominator e + a2pDenominator p.angleFracBits e := by
  have hangle := abs_roundingError_roundQ_le p.roundMode (p2aNumerator p.angleFracBits e pos) hG
  have hround := abs_roundingError_roundQ_le p.roundMode (a2pNumerator p.angleFracBits e a) hD
  rw [← p2aAngle, roundingError, p2aNumerator_eq_mul] at hangle
  rw [← a2pRounded, hpos, roundingError, a2pNumerator_eq] at hround
  refine le_trans (le_of_eq ?_) ((abs_add_le _ _).trans (add_le_add hangle hround))
  congr 1
  ring

/-- The same in degrees (41_joint_mapper.md R108). -/
theorem abs_degrees_sub_le {p : Params} {e : CalEntry} (hG : 0 < p2aDenominator e)
    (hD : 0 < a2pDenominator p.angleFracBits e) {a : Int} {pos : Nat} (hpos : a2pRounded p e a = pos) :
    |(p2aAngle p e pos : Rat) / 2 ^ p.angleFracBits - (a : Rat) / 2 ^ p.angleFracBits| ≤
      degreesPerPosition e / 2 + 1 / 2 ^ (p.angleFracBits + 1) := by
  have hint := abs_p2aAngle_sub_le hG hD hpos
  have hGq : (0 : Rat) < p2aDenominator e := by exact_mod_cast hG
  have hpow : (0 : Rat) < 2 ^ p.angleFracBits := by positivity
  have hrat : |(p2aAngle p e pos : Rat) - a| * (2 * p2aDenominator e) ≤
      p2aDenominator e + a2pDenominator p.angleFracBits e := by
    have hcast : |2 * ((p2aAngle p e pos : Rat) - a) * p2aDenominator e| ≤
        p2aDenominator e + a2pDenominator p.angleFracBits e := by exact_mod_cast hint
    rw [abs_mul, abs_mul, abs_of_pos hGq, abs_two] at hcast
    linarith
  rw [← sub_div, abs_div, abs_of_pos hpow, degreesPerPosition_eq_div p.angleFracBits e, pow_succ]
  calc |(p2aAngle p e pos : Rat) - a| / 2 ^ p.angleFracBits
      = |(p2aAngle p e pos : Rat) - a| * (2 * p2aDenominator e) /
          (2 * p2aDenominator e * 2 ^ p.angleFracBits) := by field_simp
    _ ≤ (p2aDenominator e + a2pDenominator p.angleFracBits e) / (2 * p2aDenominator e * 2 ^ p.angleFracBits) := by
        gcongr
    _ = _ := by field_simp; ring

/-- MAP_P2A completes, and RESULT as a signed number is the rounded angle. -/
theorem exists_exec_mapP2a {s : State} (h : s.params.wellFormed = true) (j : Joint) (p : BitVec 12) :
    ∃ t, exec (.mapP2a j p) s = .next t ∧ t.params = s.params ∧
      sext32 t.result = p2aAngle s.params (calEntry s.params.cal j) p.toNat := by
  obtain ⟨hlo, hhi⟩ := (p2aFits_iff _ _ _).1
    (p2aAlwaysFits_of_entryWellFormed (entryWellFormed_of_wellFormed h j) p.toNat (by omega))
  exact ⟨_, exec_mapP2a h j p, rfl, sext32_ofInt hlo hhi⟩

/-- A step of the angle of this hardware is finer than one of the position, on both joints. -/
theorem default_divisors (j : Joint) :
    0 < p2aDenominator (calEntry defaultCal j) ∧
      p2aDenominator (calEntry defaultCal j) < a2pDenominator 16 (calEntry defaultCal j) := by
  cases j <;> decide

/-- Settles O39. -/
theorem positionSurvivesTheRoundTrip : Obligations.PositionSurvivesTheRoundTrip := by
  intro j p s hcal hfrac hmin hmax
  have hwf := wellFormed_of_default hcal hfrac
  obtain ⟨t, ht, hparams, hangle⟩ := exists_exec_mapP2a hwf j p
  obtain ⟨u, hu, hpos⟩ : ∃ u, exec (.mapA2p j) { t with arg := t.result } = .next u ∧
      (u.result.toNat : Int) = a2pPosition t.params (calEntry t.params.cal j) (sext32 t.result) :=
    exists_exec_mapA2p (s := { t with arg := t.result }) (hparams ▸ hwf) j
  refine ⟨t, u, ht, hu, ?_⟩
  obtain ⟨hG, hfine⟩ := default_divisors j
  rw [← hcal, ← hfrac] at hfine
  rw [← hcal] at hG
  rw [hangle, hparams, a2pPosition, a2pRounded_p2aAngle hG hfine, hcal,
    clamp_of_mem (by exact_mod_cast hmin) (by exact_mod_cast hmax)] at hpos
  exact_mod_cast hpos

/-- A position unit of this hardware is more than a step of the angle, on both joints (R101). -/
theorem default_degreesPerPosition (j : Joint) :
    (1 / 2 ^ 17 : Rat) < degreesPerPosition (calEntry defaultCal j) / 2 := by
  cases j with
  | flexion =>
    rw [show calEntry defaultCal .flexion = flexionEntry from rfl, degreesPerPosition_flexionEntry]
    norm_num
  | ulnar =>
    rw [show calEntry defaultCal .ulnar = ulnarEntry from rfl, degreesPerPosition_ulnarEntry]
    norm_num

/-- Settles O40: inside the clamp range RESULT is the rounded sum. -/
theorem angleComesBackWithinHalfAPosition : Obligations.AngleComesBackWithinHalfAPosition := by
  intro j s hwf e frac hmin hmax
  have hentry := entryWellFormed_of_wellFormed hwf j
  obtain ⟨hgrn, hgrd, hrange, -⟩ := (entryWellFormed_iff _ _).1 hentry
  obtain ⟨t, ht, hpos⟩ := exists_exec_mapA2p hwf j
  obtain ⟨-, hparams, -⟩ := exec_keeps ht
  obtain ⟨u, hu, -, hangle⟩ := exists_exec_mapP2a (hparams ▸ hwf : t.params.wellFormed = true) j (t.result.setWidth 12)
  have hle : t.result.toNat ≤ 4095 := by
    have := (a2pPosition_mem hentry (sext32 s.arg)).2
    omega
  have hwidth : (t.result.setWidth 12).toNat = t.result.toNat := by
    rw [BitVec.toNat_setWidth]
    omega
  rw [a2pPosition, clamp_of_mem hmin hmax] at hpos
  rw [hwidth, hparams] at hangle
  have hbound := abs_degrees_sub_le (p2aDenominator_pos hgrn hrange) (a2pDenominator_pos hgrd) hpos.symm
  rw [← hangle] at hbound
  refine ⟨t, u, ht, hu, hbound, fun hcal hfrac => hbound.trans_lt ?_⟩
  have hdpp : (1 / 2 ^ 17 : Rat) < degreesPerPosition e / 2 := by
    have := default_degreesPerPosition j
    rwa [← hcal] at this
  have hstep : (1 / 2 ^ (frac + 1) : Rat) = 1 / 2 ^ 17 := by rw [hfrac]
  rw [hstep]
  linarith

/-! ### This hardware's numbers -/

theorem sext32_bounds (w : Word) : -2147483648 ≤ sext32 w ∧ sext32 w ≤ 2147483647 := by
  have := w.isLt
  unfold sext32
  split_ifs <;> omega

/-- Settles O41: each bound from the range of the angle word and of the position. -/
theorem mapperIntermediatesFit : Obligations.MapperIntermediatesFit := by
  intro j w p
  obtain ⟨hlo, hhi⟩ := sext32_bounds w
  have hp := p.isLt
  cases j
  all_goals
    simp only [calEntry, defaultCal, flexionEntry, ulnarEntry, a2pNumerator, a2pDenominator, p2aNumerator,
      p2aDenominator, abs_lt]
    omega

/-- With the default LUT no result of MAP_P2A is an exact half: twice `N` is a multiple of 8, and `D` times an odd number
is not. -/
theorem default_no_half (j : Joint) (pos : Nat) (q : Int) :
    |roundingError q (p2aNumerator 16 (calEntry defaultCal j) pos) (p2aDenominator (calEntry defaultCal j))| ≠
      p2aDenominator (calEntry defaultCal j) := by
  intro hhalf
  have hcases := eq_or_eq_neg_of_abs_eq hhalf
  cases j
  all_goals
    simp only [roundingError, p2aNumerator, p2aDenominator, calEntry, defaultCal, flexionEntry, ulnarEntry] at hcases
    omega

/-- With the default LUT both modes round MAP_P2A alike. -/
theorem p2aAngle_default_mode (mode mode' : RoundMode) (j : Joint) (pos : Nat) :
    p2aAngle (defaultWithMode mode) (calEntry defaultCal j) pos =
      p2aAngle (defaultWithMode mode') (calEntry defaultCal j) pos :=
  roundQ_eq_of_no_half mode mode' (default_divisors j).1 (default_no_half j pos)

/-- The angles of the ends of the input, evaluated (95_test_vectors.md section 7). -/
theorem p2aAngle_default_ends :
    p2aAngle defaultParams flexionEntry 0 = -6555200 ∧ p2aAngle defaultParams flexionEntry 4095 = 6552000 ∧
    p2aAngle defaultParams ulnarEntry 0 = -8753212 ∧ p2aAngle defaultParams ulnarEntry 4095 = 7918603 := by decide

/-- The angle of every position lies between those of the ends. -/
theorem abs_p2aAngle_default_le (j : Joint) {pos : Nat} (hpos : pos ≤ 4095) :
    |p2aAngle defaultParams (calEntry defaultCal j) pos| ≤ 8753212 := by
  obtain ⟨hflexion0, hflexion4095, hulnar0, hulnar4095⟩ := p2aAngle_default_ends
  rw [abs_le]
  cases j with
  | flexion =>
    have hlo := p2aAngle_mono defaultParams (e := flexionEntry) (by decide) (by decide) (Nat.zero_le pos)
    have hhi := p2aAngle_mono defaultParams (e := flexionEntry) (by decide) (by decide) hpos
    exact ⟨by rw [hflexion0] at hlo; exact le_trans (by decide) hlo,
      by rw [hflexion4095] at hhi; exact hhi.trans (by decide)⟩
  | ulnar =>
    have hlo := p2aAngle_mono defaultParams (e := ulnarEntry) (by decide) (by decide) (Nat.zero_le pos)
    have hhi := p2aAngle_mono defaultParams (e := ulnarEntry) (by decide) (by decide) hpos
    exact ⟨by rw [hulnar0] at hlo; exact hlo, by rw [hulnar4095] at hhi; exact hhi.trans (by decide)⟩

/-- MAP_P2A under the default LUT and any mode gives the angle of the default mode. -/
theorem exec_mapP2a_default {s : State} {mode : RoundMode} (h : s.params = defaultWithMode mode) (j : Joint)
    (p : BitVec 12) :
    exec (.mapP2a j p) s = .next { s with
      result := BitVec.ofInt 32 (p2aAngle defaultParams (calEntry defaultCal j) p.toNat), err := 0 } := by
  rw [exec_mapP2a (h ▸ defaultWithMode_wellFormed mode), h]
  rw [show (defaultWithMode mode).cal = defaultCal from rfl, p2aAngle_default_mode mode .halfAway]
  rfl

/-- Settles O42. -/
theorem roundModeDoesNotMatterToMapP2a : Obligations.RoundModeDoesNotMatterToMapP2a := by
  intro j p s hcal hfrac
  have hbound := abs_p2aAngle_default_le j (show p.toNat ≤ 4095 by omega)
  have hsext : sext32 (BitVec.ofInt 32 (p2aAngle defaultParams (calEntry defaultCal j) p.toNat)) =
      p2aAngle defaultParams (calEntry defaultCal j) p.toNat := by
    rw [abs_le] at hbound
    exact sext32_ofInt (by omega) (by omega)
  refine ⟨_, fun mode => ?_, hsext ▸ hbound, ?_⟩
  · have hparams : { s.params with roundMode := mode } = defaultWithMode mode := by
      rw [eq_defaultWithMode hcal hfrac]
      rfl
    exact exec_mapP2a_default (s := { s with params := { s.params with roundMode := mode } }) hparams j p
  · rintro rfl rfl
    obtain ⟨-, -, hulnar0, -⟩ := p2aAngle_default_ends
    exact hsext.trans hulnar0

/-! ### ENC_MOVE_J -/

/-- The host's half of ENC_MOVE_J: operands in range assemble to the CMD write of ENC_MOVE (30_encoding.md R71). -/
theorem encMoveJFinish_of_le {sid : BitVec 8} {r : Word} (hr : r.toNat ≤ 65535) :
    encMoveJFinish sid.toNat r = .ok [cmdWrite (.encMove sid (r.setWidth 16))] := by
  have hwf : (AsmCommand.encMove sid.toNat r.toNat).wellFormed = true := by
    simp only [AsmCommand.wellFormed, Bool.and_eq_true, decide_eq_true_eq]
    omega
  have hinstr : AsmCommand.toInstr (.encMove sid.toNat r.toNat) = .encMove sid (r.setWidth 16) := by
    simp only [AsmCommand.toInstr, BitVec.ofNat_toNat, BitVec.setWidth_eq]
  simp only [encMoveJFinish, assembleCommand, assemble_of_wellFormed hwf, hinstr]

/-- One CMD write of a packet-building command leaves its packet. -/
theorem runSteps_one_of_wirePacket {s : State} {i : Instr} {p : List Byte} (hr : Ready s) (hi : wirePacket i = some p) :
    ∃ u, runSteps 1 { s with pending := [cmdWrite i] } = .next u ∧ u.packet = p := by
  have hstep := (step_of_cmdWrite (s := { s with pending := [cmdWrite i] }) hr rfl).trans (exec_of_wirePacket hi _)
  exact ⟨_, runSteps_succ_next hstep, (holdsPacket_loadPacket s (wirePacket_length_le hi)).1⟩

/-- Settles O55: the two accesses up to the read, then the one the host issues with the position it read. -/
theorem encMoveJSendsTheMappedPosition : Obligations.EncMoveJSendsTheMappedPosition := by
  intro s j sid hr hp
  have hmap := step_of_cmdWrite hr hp
  obtain ⟨t, ht, hpos⟩ : ∃ t, exec (.mapA2p j) { s with pending := [memRead .result], response := .written } = .next t ∧
      (t.result.toNat : Int) = a2pPosition s.params (calEntry s.params.cal j) (sext32 s.arg) :=
    exists_exec_mapA2p (s := { s with pending := [memRead .result], response := .written }) hr.1 j
  obtain ⟨-, hparams, hpending, -⟩ := exec_keeps ht
  have hready : Ready t := ⟨hparams ▸ hr.1, (exec_effect ht hr.1).err_le⟩
  have hread := step_of_memRead (r := .result) hready hpending rfl
  have hle : t.result.toNat ≤ 4095 := by
    have := (a2pPosition_mem (entryWellFormed_of_wellFormed hr.1 j) (sext32 s.arg)).2
    omega
  obtain ⟨u, hu, hpacket⟩ := runSteps_one_of_wirePacket (s := { t with pending := [], response := .data t.result })
    hready (wirePacket_encMove sid (t.result.setWidth 16))
  refine ⟨_, u, t.result, _, ?_, rfl, encMoveJFinish_of_le (by omega), hu, hpos, ?_⟩
  · exact (runSteps_succ_next (hmap.trans ht)).trans (runSteps_succ_next hread)
  · rw [hpacket, wirePacket_encMove]

end Sys2Proof.Machine
end
